-- ==== Sys2Proof/Word.lean ====
section
/-! DEFINITION. The bit-vector types of the block: what the spec itself treats as bits.
Widths are those of 00_scope.md R7 (decisions D2, D3, D7, D10). -/

namespace Sys2Proof

/-- A colour register or operand: CW = 32 bits, two's complement (R21, R74). -/
abbrev Colour := BitVec 32

/-- A brightness register or operand: the 64 raw bits of a binary64 value (R22, R75). -/
abbrev Brightness := BitVec 64

/-- A pixel index operand: IW = 32 bits, two's complement (R73). -/
abbrev Index := BitVec 32

/-- The op byte of a command word (R70). -/
abbrev OpByte := BitVec 8

/-- A command word: CMDW = 200 bits, bit 0 the least significant (R70, R8). -/
abbrev CmdWord := BitVec 200

/-- One byte on the wire (R79). -/
abbrev WireByte := BitVec 8

/-- A brightness code `t5`, the low five bits of the brightness byte (R81, R121). -/
abbrev BrCode := BitVec 5

end Sys2Proof
end

