-- ==== Sys2Proof/Syntax.lean ====
section
/-! DEFINITION. The commands of the block, one constructor per row of spec/opcode_table.json (30_encoding.md R72), the
seven formats of R71, and the assembler lines of R85. -/

namespace Sys2Proof

/-- A decoded command. Each field holds exactly the bits its field of the command word has (R71), so every value of
this type is a command the word can carry: an index outside 0..7 is a well-formed command that faults (R51). -/
inductive Instr where
  /-- SETPIXEL idx, r, g, b, br (R101). -/
  | setpixel (idx : Index) (r g b : Colour) (br : Brightness)
  /-- SETCOLOR idx, r, g, b (R102). -/
  | setcolor (idx : Index) (r g b : Colour)
  /-- SETBRIGHT idx, br (R103). -/
  | setbright (idx : Index) (br : Brightness)
  /-- SETALL r, g, b, br (R104). -/
  | setall (r g b : Colour) (br : Brightness)
  /-- READ idx (R105). -/
  | read (idx : Index)
  /-- SHOW (R140). -/
  | showFrame
  /-- CLEAR (R141). -/
  | clear
  /-- SETCOE en (R170). -/
  | setcoe (en : Bool)
deriving DecidableEq, Repr

/-- The seven formats of R71. -/
inductive Format where
  | pixel | colour | brightness | all | index | bare | enable
deriving DecidableEq, Repr

/-- The format of each command (R71, R72). -/
def Instr.format : Instr → Format
  | .setpixel .. => .pixel
  | .setcolor .. => .colour
  | .setbright .. => .brightness
  | .setall .. => .all
  | .read .. => .index
  | .showFrame => .bare
  | .clear => .bare
  | .setcoe .. => .enable

/-- The op byte of each command (R72). -/
def Instr.op : Instr → OpByte
  | .setpixel .. => 0x01#8
  | .setcolor .. => 0x02#8
  | .setbright .. => 0x03#8
  | .setall .. => 0x04#8
  | .read .. => 0x05#8
  | .showFrame => 0x06#8
  | .clear => 0x07#8
  | .setcoe .. => 0x08#8

/-- A brightness as the assembler reads it (R85): 16 hexadecimal digits of raw bits, or the decimal number
`(-1)^neg * digits / 10^fracLen`. -/
inductive BrLit where
  | raw (bits : Brightness)
  | decimal (neg : Bool) (digits fracLen : Nat)
deriving DecidableEq, Repr

/-- One line of assembler (R85), with its integers as written. -/
inductive AsmLine where
  | setpixel (idx r g b : Int) (br : BrLit)
  | setcolor (idx r g b : Int)
  | setbright (idx : Int) (br : BrLit)
  | setall (r g b : Int) (br : BrLit)
  | read (idx : Int)
  | showFrame
  | clear
  | setcoe (en : Int)
deriving DecidableEq, Repr

end Sys2Proof
end

