-- ==== Sys2Proof/WellFormed.lean ====
section
/-! DEFINITION. Well-formedness. An `Instr` needs no check of its own: each of its fields holds exactly the bits of its
field of the command word. What can be ill-formed is a line of assembler whose integer does not fit its field, and a
word that no assembler emits because it has bits set in a field its format does not use (R77). -/

namespace Sys2Proof

/-- An integer literal that a 32-bit operand can hold, as a two's complement or as an unsigned number
(DESIGN CHOICE, log entry 11: R85 gives no range). -/
def fitsOperand (n : Int) : Bool := decide (-(2 ^ 31) ≤ n) && decide (n < 2 ^ 32)

/-- The lines the assembler accepts: every integer fits its operand, and `en` is 0 or 1 (R85). -/
def AsmLine.wellFormed : AsmLine → Bool
  | .setpixel idx r g b _ => fitsOperand idx && fitsOperand r && fitsOperand g && fitsOperand b
  | .setcolor idx r g b => fitsOperand idx && fitsOperand r && fitsOperand g && fitsOperand b
  | .setbright idx _ => fitsOperand idx
  | .setall r g b _ => fitsOperand r && fitsOperand g && fitsOperand b
  | .read idx => fitsOperand idx
  | .showFrame => true
  | .clear => true
  | .setcoe en => en == 0 || en == 1

/-- The bit ranges (lowest bit, length) of the command word that a format does not use (R71, R77). -/
def Format.ignored : Format → List (Nat × Nat)
  | .pixel => []
  | .colour => [(0, 64)]
  | .brightness => [(64, 96)]
  | .all => [(160, 32)]
  | .index => [(0, 160)]
  | .bare => [(0, 192)]
  | .enable => [(0, 160), (161, 31)]

end Sys2Proof
end

