-- ==== Sys2Proof/Decode.lean ====
section
/-! DEFINITION. Decoding and encoding of the 200-bit command word (30_encoding.md R70 to R78, R84). Decoding is total;
a reserved op is rejected by name. The encoder is written from the field table of R71 on its own. -/

namespace Sys2Proof

/-! ## The fields of the word (R71) -/

/-- `cmd[199:192]`, the op byte. -/
def fieldOp (w : CmdWord) : OpByte := w.extractLsb' 192 8

/-- `cmd[191:160]`, the index operand. -/
def fieldIdx (w : CmdWord) : Index := w.extractLsb' 160 32

/-- `cmd[160]`, the enable operand of SETCOE (R76). -/
def fieldEn (w : CmdWord) : Bool := w.getLsbD 160

/-- `cmd[159:128]`, the red operand. -/
def fieldR (w : CmdWord) : Colour := w.extractLsb' 128 32

/-- `cmd[127:96]`, the green operand. -/
def fieldG (w : CmdWord) : Colour := w.extractLsb' 96 32

/-- `cmd[95:64]`, the blue operand. -/
def fieldB (w : CmdWord) : Colour := w.extractLsb' 64 32

/-- `cmd[63:0]`, the brightness operand. -/
def fieldBr (w : CmdWord) : Brightness := w.extractLsb' 0 64

/-- Why a word is no command. -/
inductive DecodeError where
  /-- The op byte is 0x00 or 0x09..0xFF (R78). -/
  | reservedOp (op : OpByte)
deriving DecidableEq, Repr

/-- The command of a word. Only the op byte takes part in the selection (R72), and a command takes the fields its
format names and ignores the rest (R70, R77). -/
def decode (w : CmdWord) : Except DecodeError Instr :=
  match (fieldOp w).toNat with
  | 0x01 => .ok (.setpixel (fieldIdx w) (fieldR w) (fieldG w) (fieldB w) (fieldBr w))
  | 0x02 => .ok (.setcolor (fieldIdx w) (fieldR w) (fieldG w) (fieldB w))
  | 0x03 => .ok (.setbright (fieldIdx w) (fieldBr w))
  | 0x04 => .ok (.setall (fieldR w) (fieldG w) (fieldB w) (fieldBr w))
  | 0x05 => .ok (.read (fieldIdx w))
  | 0x06 => .ok .showFrame
  | 0x07 => .ok .clear
  | 0x08 => .ok (.setcoe (fieldEn w))
  | _ => .error (.reservedOp (fieldOp w))

/-- A word from its six fields, the op byte in the most significant position (R71). -/
def wordOf (op : OpByte) (idx : Index) (r g b : Colour) (br : Brightness) : CmdWord :=
  op ++ idx ++ r ++ g ++ b ++ br

/-- The word of a command, with zeros in the fields it does not use (R77). -/
def encode : Instr → CmdWord
  | .setpixel idx r g b br => wordOf 0x01#8 idx r g b br
  | .setcolor idx r g b => wordOf 0x02#8 idx r g b 0#64
  | .setbright idx br => wordOf 0x03#8 idx 0#32 0#32 0#32 br
  | .setall r g b br => wordOf 0x04#8 0#32 r g b br
  | .read idx => wordOf 0x05#8 idx 0#32 0#32 0#32 0#64
  | .showFrame => wordOf 0x06#8 0#32 0#32 0#32 0#32 0#64
  | .clear => wordOf 0x07#8 0#32 0#32 0#32 0#32 0#64
  | .setcoe en => wordOf 0x08#8 (if en then 1#32 else 0#32) 0#32 0#32 0#32 0#64

/-- The format an op byte selects; none for a reserved op (R72, R78). -/
def formatOfOp (op : OpByte) : Option Format :=
  match op.toNat with
  | 0x01 => some .pixel
  | 0x02 => some .colour
  | 0x03 => some .brightness
  | 0x04 => some .all
  | 0x05 => some .index
  | 0x06 => some .bare
  | 0x07 => some .bare
  | 0x08 => some .enable
  | _ => none

/-- A word an assembler may emit: its op is not reserved and every bit its format does not use is zero (R77). -/
def canonicalWord (w : CmdWord) : Bool :=
  match formatOfOp (fieldOp w) with
  | none => false
  | some f => f.ignored.all fun range => w.extractLsb' range.1 range.2 == 0

/-- The command word that the host's numbering of an opcode-table row stands for: the table's bit 0 is `cmd[0]`, and
every bit from `nbits` up is 0. -/
def tableWord (nbits w : Nat) : CmdWord := BitVec.ofNat 200 (w % 2 ^ nbits)

/-- The command the decoder reads from a table row's word; none where it refuses, or where the row is longer than a
command word (R84). -/
def decodeTableWord (nbits w : Nat) : Option Instr :=
  if nbits ≤ 200 then (decode (tableWord nbits w)).toOption else none

end Sys2Proof
end

