-- ==== Sys2Proof/Config.lean ====
section
/-! DEFINITION. What is fixed for this hardware (00_scope.md R6, R7), and the free values: the choices the spec leaves
open. A free value is an opaque constant with no body, so a claim about the model holds whatever it is. -/

namespace Sys2Proof.Config

/-- NPIX, the number of pixels (R6, R20). -/
abbrev nPix : Nat := 8

/-- START_PULSES, the clock pulses of the start frame (R6, R80). -/
def startPulses : Nat := 32

/-- END_PULSES, the clock pulses of the end frame: 36, not 32 (R6, R82). -/
def endPulses : Nat := 36

/-- OPS_PER_COMMIT, the line operations of one commit: 65 + 768 + 73 (R7, R130). -/
abbrev opsPerCommit : Nat := 906

/-- CYCLES_PER_COMMIT, the bit-clock cycles of one commit: 32 + 8 * 4 * 8 + 36 (R6, R83). -/
abbrev cyclesPerCommit : Nat := 324

/-- The raw bits of 31.0, the brightness multiplier BR_SCALE (R6, R122). -/
def brScaleBits : Brightness := 0x403F000000000000#64

/-- TRUNC_LIMIT: the truncation to an integer is defined below this magnitude (R7, R124). -/
def truncLimit : Nat := 2 ^ 31

/-- FREE VALUE (R124, U7): `freeCode n i` is the brightness code drawn for pixel `i` in the commit whose free-value
index is `n`, when that pixel's brightness lies in the undefined range. Log entry 3. -/
opaque freeCode : Nat → Nat → BrCode

/-- FREE VALUE (R192 item 4): whether an exit request first seen in Idle is served in the same cycle (true) or in the
next one (false); the argument is the free-value index. Log entry 4. -/
opaque exitServedSameCycle : Nat → Bool

end Sys2Proof.Config
end

