-- ==== Sys2Proof/Machine/State.lean ====
section
/-! DEFINITION. The state of the block (10_state.md), as plain data, and the state right after reset (R39). -/

namespace Sys2Proof.Machine

/-- One pixel record (R20): three colour registers and the raw bits of the brightness. -/
structure Pixel where
  r : Colour
  g : Colour
  b : Colour
  br : Brightness
deriving DecidableEq, Repr

/-- The pixel (0, 0, 0, +0.0) that reset and CLEAR write (R39, R141, D26). -/
def Pixel.zero : Pixel := ⟨0#32, 0#32, 0#32, 0#64⟩

/-- The pixel buffer PB: exactly 8 pixels (R20). -/
abbrev Buffer := Vector Pixel Config.nPix

/-- The buffer with every pixel zero (R39). -/
def Buffer.zero : Buffer := Vector.replicate Config.nPix Pixel.zero

/-- ST, the two logical states of the transport (R25). -/
inductive Transport where
  | idle
  | transmitting
deriving DecidableEq, Repr

/-- FAULT, the block's sticky fault register (R28, R181). -/
inductive FaultCode where
  /-- Code 0. -/
  | none
  /-- Code 1: a line could not be configured, found at reset (R182). -/
  | configurationError
  /-- Code 2: an indexed command's index was not in 0..7 (R183). -/
  | indexOutOfRange
  /-- Code 3: the op byte was reserved (R184). -/
  | illegalCommand
deriving DecidableEq, Repr

/-- The four line operations, the only things the block does to the outside world (R11): drive DATA low, drive DATA
high, drive CLOCK high, drive CLOCK low. -/
inductive LineOp where
  | d0 | d1 | ch | cl
deriving DecidableEq, Repr

/-- RDV and RDATA (R34). `invalid` is RDV = 0: the spec forbids giving RDATA a value there (R34, R39, U11; log entry 2).
`valid p` is RDV = 1 with RDATA holding the fields of `p`. -/
inductive ReadData where
  | invalid
  | valid (p : Pixel)
deriving DecidableEq, Repr

/-- The input pins as sampled in one `clk` cycle (R38). -/
structure Pins where
  rst : Bool
  cfgOk : Bool
  cmdValid : Bool
  cmd : CmdWord
  exitReq : Bool
deriving DecidableEq, Repr

/-- No reset, no command presented, no exit request. -/
def Pins.quiet : Pins := ⟨false, true, false, 0#200, false⟩

/-- The whole state of the block. -/
@[ext]
structure State where
  /-- The pixel buffer (R20 to R23). -/
  pb : Buffer
  /-- DATA, the level of the data line (R24). -/
  data : Bool
  /-- CLOCK, the level of the clock line (R24). -/
  clock : Bool
  /-- ST (R25). -/
  st : Transport
  /-- POS, a 10-bit register that holds 0..905 (R26, R27; log entry 8). -/
  pos : Fin Config.opsPerCommit
  /-- FAULT (R28). -/
  fault : FaultCode
  /-- FINFO (R29). -/
  finfo : BitVec 32
  /-- HALT (R30). -/
  halt : Bool
  /-- COE, clear on exit (R31). -/
  coe : Bool
  /-- EXITP, the exit request pending (R32). -/
  exitp : Bool
  /-- FINAL, the final clear has been started (R33). -/
  finalSent : Bool
  /-- RDATA and RDV (R34). -/
  rdata : ReadData
  /-- TRACE, ghost: every line operation since reset, in order (R36). -/
  trace : List LineOp
  /-- Ghost: the number of commits completed since reset, of R41 (f) (log entry 7). -/
  commits : Nat
  /-- MODEL'S OWN: the index of the next free value (log entry 3). -/
  freeIndex : Nat
  /-- MODEL'S OWN: the input pins of the cycles to come, the next cycle first (log entry 1). -/
  inputs : List Pins
deriving DecidableEq, Repr

/-- The reasons for which the model's step stops: none. Every fault of the spec is a next state in which FAULT is
written (R186), and a frozen block goes on taking cycles in which nothing happens (R192 item 2). -/
inductive Fault where
deriving DecidableEq, Repr

/-- The reasons for which the model has no meaning to give. -/
inductive Refusal where
  /-- An instruction without a meaning; raised by an arm of `exec`; safe. No arm raises it: all eight commands have
  their meaning. -/
  | notModelled (mnemonic : String)
deriving DecidableEq, Repr

/-- What a step answers. -/
abbrev Result := Host.Outcome State Fault Refusal

/-- Right after reset with `cfg_ok` = 1, the launch premise CleanReset of R227: every register as in the table of R39
(log entry 5); the two fields that are the model's own start at 0 and empty (log entries 1 and 3). -/
def State.reset : State where
  pb := Buffer.zero
  data := false
  clock := false
  st := .idle
  pos := 0
  fault := .none
  finfo := 0#32
  halt := false
  coe := false
  exitp := false
  finalSent := false
  rdata := .invalid
  trace := []
  commits := 0
  freeIndex := 0
  inputs := []

end Sys2Proof.Machine
end

