-- ==== Sys2Proof/Machine/Float.lean ====
section
/-! DEFINITION. The two numeric primitives of 41_encode.md R122: the binary64 product and the truncation toward zero.
A binary64 datum is kept as what it stands for, so that a NaN carries no payload (log entry 14). -/

namespace Sys2Proof.Machine

/-- What a binary64 pattern stands for; `fin neg m e` is `(-1)^neg * m * 2^e`. -/
inductive F64 where
  | nan
  | inf (neg : Bool)
  | fin (neg : Bool) (m : Nat) (e : Int)
deriving DecidableEq, Repr

/-- The number of bits of `n`; 0 for 0. -/
def bitLength (n : Nat) : Nat := if n = 0 then 0 else Nat.log2 n + 1

/-- Reading the 64 bits: sign bit 63, exponent field 62:52 with bias 1023, fraction 51:0 (R71, G2). -/
def F64.ofBits (v : Brightness) : F64 :=
  let neg := v.getLsbD 63
  let expo := (v.extractLsb' 52 11).toNat
  let frac := (v.extractLsb' 0 52).toNat
  if expo = 0x7FF then
    if frac = 0 then .inf neg else .nan
  else if expo = 0 then .fin neg frac (-1074)
  else .fin neg (2 ^ 52 + frac) ((expo : Int) - 1075)

/-- `n / 2^d`, rounded to the nearest integer, a tie to the even one. -/
def roundShift (n d : Nat) : Nat :=
  let q := n / 2 ^ d
  let r := n % 2 ^ d
  if 2 * r > 2 ^ d ∨ (2 * r = 2 ^ d ∧ q % 2 = 1) then q + 1 else q

/-- The exact value `(-1)^neg * m * 2^e` rounded once to binary64 with roundTiesToEven (R122): to a multiple of
`2^q`, where `q` leaves 53 significant bits but is at least -1074 (subnormals), and to infinity from `2^1024` on. -/
def F64.round (neg : Bool) (m : Nat) (e : Int) : F64 :=
  let q := max (e + bitLength m - 53) (-1074)
  if q ≤ e then
    if (1024 : Int) < e + bitLength m then .inf neg else .fin neg m e
  else
    let p := roundShift m (q - e).toNat
    if (1024 : Int) < q + bitLength p then .inf neg else .fin neg p q

/-- The product of two binary64 data (R122), with the standard's results for NaN, infinities and zeros (G2). -/
def F64.mul : F64 → F64 → F64
  | .nan, _ => .nan
  | _, .nan => .nan
  | .inf s, .inf t => .inf (s != t)
  | .inf s, .fin t m _ => if m = 0 then .nan else .inf (s != t)
  | .fin s m _, .inf t => if m = 0 then .nan else .inf (s != t)
  | .fin s m e, .fin t n f => .round (s != t) (m * n) (e + f)

/-- `fmul64(a, b)` of R122. -/
def fmul64 (a b : Brightness) : F64 := .mul (.ofBits a) (.ofBits b)

/-- The integer part of a magnitude `m * 2^e`. -/
def floorMag (m : Nat) (e : Int) : Nat :=
  if 0 ≤ e then m * 2 ^ e.toNat else m / 2 ^ (-e).toNat

/-- `trunc(p)` of R122 where R121 takes it: the integer part of a finite `p` with `|p| < 2^31`, with `p`'s sign; none
for NaN, an infinity, or a magnitude of 2^31 or more (R124). -/
def F64.trunc31 : F64 → Option Int
  | .nan => none
  | .inf _ => none
  | .fin neg m e =>
    if floorMag m e < Config.truncLimit then
      some (if neg then -(floorMag m e : Int) else (floorMag m e : Int))
    else none

end Sys2Proof.Machine
end

