-- ==== Sys2Proof/Machine/Encoder.lean ====
section
/-! DEFINITION. The frame encoder: bytes, bit cells and frames as pure functions of the buffer (41_encode.md), and the
wire formats they put on the lines (30_encoding.md R79 to R83). `draw i` is the brightness code drawn for pixel `i`. -/

namespace Sys2Proof.Machine

/-- `ColByte(c)`: the low 8 bits (R120). -/
def colByte (c : Colour) : WireByte := c.extractLsb' 0 8

/-- `t`, the truncated product of R121; none in the undefined range (R124). -/
def brTrunc (br : Brightness) : Option Int := (fmul64 br Config.brScaleBits).trunc31

/-- Whether a brightness is in the undefined range of R124. -/
def undefinedBr (br : Brightness) : Bool := (brTrunc br).isNone

/-- `t5`, the brightness code (R121): `t mod 32` with the floor modulus, or the drawn code in the undefined range. -/
def brCode (draw : BrCode) (br : Brightness) : BrCode :=
  match brTrunc br with
  | some t => BitVec.ofNat 5 (t % 32).toNat
  | none => draw

/-- `BrByte(br)`: 0b111 above the brightness code (R121). -/
def brByte (draw : BrCode) (br : Brightness) : WireByte := 0b111#3 ++ brCode draw br

/-- The float-free characterisation of `t` (R125), step by step as the spec gives it; none in the undefined range. -/
def brTruncInt (br : Brightness) : Option Int :=
  let e := (br.extractLsb' 52 11).toNat
  let f := (br.extractLsb' 0 52).toNat
  if e = 0x7FF then none
  else
    let m := if e = 0 then f else 2 ^ 52 + f
    let ex : Int := if e = 0 then -1074 else (e : Int) - 1075
    let n := 31 * m
    let l := bitLength n
    let d := l - 53
    let p := if l > 53 then
        (if n % 2 ^ d > 2 ^ (d - 1) ∨ (n % 2 ^ d = 2 ^ (d - 1) ∧ n / 2 ^ d % 2 = 1) then n / 2 ^ d + 1 else n / 2 ^ d)
      else n
    let x : Int := if l > 53 then ex + d else ex
    let mag := if 0 ≤ x then p * 2 ^ x.toNat else p / 2 ^ (-x).toNat
    if 2 ^ 31 ≤ mag then none
    else some (if br.getLsbD 63 then -(mag : Int) else (mag : Int))

/-- The DATA operation that drives a bit: D1 for 1, D0 for 0 (R79). -/
def dataOp (bit : Bool) : LineOp := if bit then .d1 else .d0

/-- The bit cells of the `n` top bits of a working value that is shifted left after each (R127). -/
def writeBits : Nat → WireByte → List LineOp
  | 0, _ => []
  | n + 1, w => dataOp (w &&& 0b10000000#8 != 0#8) :: .ch :: .cl :: writeBits n (w <<< 1)

/-- `WriteByte(v)`: 24 line operations, most significant bit first (R127). -/
def writeByte (v : WireByte) : List LineOp := writeBits 8 v

/-- `n` clock pulses, CLOCK high then low (R128). -/
def pulses : Nat → List LineOp
  | 0 => []
  | n + 1 => .ch :: .cl :: pulses n

/-- `ResetFrame(n)`: DATA low once, then `n` clock pulses (R128). -/
def resetFrame (n : Nat) : List LineOp := .d0 :: pulses n

/-- `PixelFrame(p)`: brightness byte, blue, green, red (R129). -/
def pixelFrame (draw : BrCode) (p : Pixel) : List LineOp :=
  writeByte (brByte draw p.br) ++ writeByte (colByte p.b) ++ writeByte (colByte p.g) ++ writeByte (colByte p.r)

/-- The pixel frames of all 8 pixels, index 0 first (R130, R54). -/
def pixelFrames (draw : Nat → BrCode) (pb : Buffer) : List LineOp :=
  (List.finRange Config.nPix).flatMap fun (i : Fin Config.nPix) => pixelFrame (draw i.val) pb[i]

/-- `Frame(PB)`: the line operations of one commit (R130). -/
def frame (draw : Nat → BrCode) (pb : Buffer) : List LineOp :=
  resetFrame Config.startPulses ++ pixelFrames draw pb ++ resetFrame Config.endPulses

/-- The 32 bits of a pixel frame, bit 31 sent first: `111ttttt`, blue, green, red (R81). -/
def pixelWord (draw : BrCode) (p : Pixel) : BitVec 32 :=
  brByte draw p.br ++ colByte p.b ++ colByte p.g ++ colByte p.r

/-! ## Lengths, so that a position 0..905 always names an operation -/

theorem length_writeBits (n : Nat) (w : WireByte) : (writeBits n w).length = 3 * n := by
  induction n generalizing w with
  | zero => rfl
  | succ n ih => simp only [writeBits, List.length_cons, ih]; omega

theorem length_writeByte (v : WireByte) : (writeByte v).length = 24 := length_writeBits 8 v

theorem length_pulses (n : Nat) : (pulses n).length = 2 * n := by
  induction n with
  | zero => rfl
  | succ n ih => simp only [pulses, List.length_cons, ih]; omega

theorem length_resetFrame (n : Nat) : (resetFrame n).length = 1 + 2 * n := by
  simp only [resetFrame, List.length_cons, length_pulses]; omega

theorem length_pixelFrame (draw : BrCode) (p : Pixel) : (pixelFrame draw p).length = 96 := by
  simp only [pixelFrame, List.length_append, length_writeByte]

theorem length_pixelFrames (draw : Nat → BrCode) (pb : Buffer) : (pixelFrames draw pb).length = 768 := by
  simp [pixelFrames, List.length_flatMap, length_pixelFrame, Config.nPix]

/-- A commit is 906 line operations (R130). -/
theorem length_frame (draw : Nat → BrCode) (pb : Buffer) : (frame draw pb).length = Config.opsPerCommit := by
  simp [frame, length_resetFrame, length_pixelFrames, Config.startPulses, Config.endPulses]

/-- `Frame(PB)[pos]` (R142). -/
def frameOp (draw : Nat → BrCode) (pb : Buffer) (pos : Fin Config.opsPerCommit) : LineOp :=
  (frame draw pb)[pos.val]'(by rw [length_frame]; exact pos.isLt)

end Sys2Proof.Machine
end

