-- ==== Sys2Proof/Machine/Operands.lean ====
section
/-! DEFINITION. Operand forms: the pixel index (the block's one addressing mode, 40_buffer_commands.md section 3) and
the subsets of a pixel's fields that a command writes (20_memory.md R53). -/

namespace Sys2Proof.Machine

/-- The pixel an index operand addresses: the signed value, when it is in 0..7, and nothing otherwise; it is never
wrapped, masked or clamped (R51, R73). -/
def pixelIndex (idx : Index) : Option (Fin Config.nPix) :=
  if h : 0 ≤ idx.toInt ∧ idx.toInt ≤ 7 then some ⟨idx.toInt.toNat, by unfold Config.nPix; omega⟩ else none

/-- The subsets of {r, g, b, br} that a write takes: three occur (R53). -/
inductive FieldSet where
  /-- {r, g, b, br}: SETPIXEL, SETALL, CLEAR. -/
  | whole
  /-- {r, g, b}: SETCOLOR. -/
  | colour
  /-- {br}: SETBRIGHT. -/
  | brightness
deriving DecidableEq, Repr

/-- The record `old` with each field of the set taken from `v` (R53, R57). -/
def FieldSet.write (fields : FieldSet) (v old : Pixel) : Pixel :=
  match fields with
  | .whole => v
  | .colour => ⟨v.r, v.g, v.b, old.br⟩
  | .brightness => ⟨old.r, old.g, old.b, v.br⟩

end Sys2Proof.Machine
end

