-- ==== Sys2Proof/Machine/Ops.lean ====
section
/-! DEFINITION. The named operations over the state that the commands and the steps share: buffer access
(20_memory.md R52, R53), fault entry (60_exceptions.md R186), line operations (42_commit_transmit.md R146), the start
of a commit, the exit latch, reset, and the sampling of the input pins. -/

namespace Sys2Proof.Machine

/-! ## Faults (R186): entry; the only way out is reset (R188) -/

/-- `raise F(info)`: FAULT and FINFO are written and nothing else changes (R186). -/
def State.raise (code : FaultCode) (info : BitVec 32) (s : State) : State :=
  { s with fault := code, finfo := info }

/-- Reset with `cfg_ok` = `cfgOk`: every register to its value in R39; this is also the only return from a fault (R188,
R210). The free-value index and the pins of the cycles to come are no registers and stay (log entries 1 and 3). -/
def State.resetTo (cfgOk : Bool) (s : State) : State :=
  { State.reset with
    fault := if cfgOk then .none else .configurationError
    freeIndex := s.freeIndex
    inputs := s.inputs }

/-! ## The buffer (R52, R53) -/

/-- Access by an index operand: IndexOutOfRange with the operand as FINFO when it is not in 0..7, and nothing else is
done then (R51, R183); otherwise `access` of the pixel it names. -/
def withPixel (idx : Index) (s : State) (access : Fin Config.nPix → State) : Result :=
  match pixelIndex idx with
  | some i => .next (access i)
  | none => .next (s.raise .indexOutOfRange idx)

/-- The write of some fields of one entry, every other field and entry keeping its value (R53). -/
def State.writePixel (i : Fin Config.nPix) (fields : FieldSet) (v : Pixel) (s : State) : State :=
  { s with pb := s.pb.set i (fields.write v s.pb[i]) }

/-- `PBWrite(i, fields, v)` (R53). -/
def pbWrite (idx : Index) (fields : FieldSet) (v : Pixel) (s : State) : Result :=
  withPixel idx s fun i => s.writePixel i fields v

/-- `PBRead(i)` into the read-data register: RDATA takes the record as stored and RDV becomes 1 (R52, R105). -/
def pbRead (idx : Index) (s : State) : Result :=
  withPixel idx s fun i => { s with rdata := .valid s.pb[i] }

/-- One record written to all 8 entries (R104). -/
def State.fillPixels (v : Pixel) (s : State) : State :=
  { s with pb := Vector.replicate Config.nPix v }

/-! ## The lines and the sequencer -/

/-- `apply(op)`: the line takes its level and the operation is appended to TRACE (R146). -/
def State.applyOp (op : LineOp) (s : State) : State :=
  match op with
  | .d0 => { s with data := false, trace := s.trace ++ [op] }
  | .d1 => { s with data := true, trace := s.trace ++ [op] }
  | .ch => { s with clock := true, trace := s.trace ++ [op] }
  | .cl => { s with clock := false, trace := s.trace ++ [op] }

/-- The brightness codes drawn for the commit under way: free values, fixed for the whole commit (R124, R142). -/
def State.draw (s : State) : Nat → BrCode := Config.freeCode s.freeIndex

/-- The start of a commit: ST <- Transmitting, POS <- 0 (R140), and the draws of this commit are new ones (R124). -/
def State.startCommit (s : State) : State :=
  { s with st := .transmitting, pos := 0, freeIndex := s.freeIndex + 1 }

/-- The sequencer moves on: POS + 1, or back to 0 and Idle after position 905 (R27, R142, R143). -/
def State.advance (s : State) : State :=
  if h : s.pos.val = 905 then { s with pos := 0, st := .idle, commits := s.commits + 1 }
  else { s with pos := ⟨s.pos.val + 1, by have := s.pos.isLt; unfold Config.opsPerCommit at *; omega⟩ }

/-! ## Pins -/

/-- The exit latch while the block is not frozen: EXITP is set when `exit_req` is high (R171). -/
def State.latchExit (exitReq : Bool) (s : State) : State :=
  { s with exitp := s.exitp || exitReq }

/-- The pins of this cycle; quiet when no more are listed (log entry 1). -/
def State.pins (s : State) : Pins :=
  match s.inputs with
  | [] => .quiet
  | p :: _ => p

/-- The state once this cycle's pins have been sampled. -/
def State.sampled (s : State) : State := { s with inputs := s.inputs.tail }

/-- The state in which the host presents the word `w` in the very next cycle and the block accepts it: a sample with
`cmd_valid` = 1 comes first, and the four conditions of R100 on the state hold (they hold already in a state that
accepts commands, State.reset among them). Log entry 1. -/
def State.presentWord (w : CmdWord) (s : State) : State :=
  { s with
    inputs := ⟨false, true, true, w, false⟩ :: s.inputs
    st := .idle
    fault := .none
    halt := false
    exitp := false }

end Sys2Proof.Machine
end

