-- ==== Sys2Proof/Machine/Buffer.lean ====
section
/-! DEFINITION. The buffer commands (40_buffer_commands.md). Each is the effect of an accepted command; acceptance (R100)
is the cycle's (Machine/Cycle.lean). None of them drives a line (R58). -/

namespace Sys2Proof.Machine

/-- SETPIXEL idx, r, g, b, br: all four fields of one entry (R101). -/
def execSetpixel (idx : Index) (r g b : Colour) (br : Brightness) (s : State) : Result :=
  pbWrite idx .whole ⟨r, g, b, br⟩ s

/-- SETCOLOR idx, r, g, b: the colour fields only, brightness untouched (R102). The record's `br` is not read. -/
def execSetcolor (idx : Index) (r g b : Colour) (s : State) : Result :=
  pbWrite idx .colour ⟨r, g, b, 0#64⟩ s

/-- SETBRIGHT idx, br: brightness only, colour untouched (R103). The record's colours are not read. -/
def execSetbright (idx : Index) (br : Brightness) (s : State) : Result :=
  pbWrite idx .brightness ⟨0#32, 0#32, 0#32, br⟩ s

/-- SETALL r, g, b, br: the same record in all 8 entries (R104). -/
def execSetall (r g b : Colour) (br : Brightness) (s : State) : Result :=
  .next (s.fillPixels ⟨r, g, b, br⟩)

/-- READ idx: RDATA <- PB[idx], RDV <- 1 (R105). -/
def execRead (idx : Index) (s : State) : Result := pbRead idx s

end Sys2Proof.Machine
end

