-- ==== Sys2Proof/Machine/System.lean ====
section
/-! DEFINITION. The system command and the exit hook (43_system.md). -/

namespace Sys2Proof.Machine

/-- SETCOE en: COE <- en (R170). -/
def execSetcoe (en : Bool) (s : State) : Result := .next { s with coe := en }

/-- The exit service, taken in Idle with EXITP = 1: with the registration enabled and the final clear not yet sent, the
buffer is zeroed and its transmission starts (R172); otherwise the block halts (R173). -/
def State.exitService (s : State) : State :=
  if s.coe && !s.finalSent then { (s.fillPixels .zero).startCommit with finalSent := true }
  else { s with halt := true }

/-- An Idle cycle with EXITP = 1 or `exit_req` = 1 (R192 item 4). A pending request is served. A request first seen in
this cycle is latched, and served in this cycle or in the next one: a free value says which (log entry 4). -/
def State.exitCycle (s : State) : State :=
  if s.exitp then s.exitService
  else
    let latched := { s with exitp := true, freeIndex := s.freeIndex + 1 }
    if Config.exitServedSameCycle s.freeIndex then latched.exitService else latched

end Sys2Proof.Machine
end

