-- ==== Sys2Proof/Machine/Transmit.lean ====
section
/-! DEFINITION. Commit and transmission (42_commit_transmit.md): the two commands that start a transmission and the
transmitter step that plays Frame(PB) onto the lines. -/

namespace Sys2Proof.Machine

/-- SHOW: the transmission of the buffer starts (R140). -/
def execShow (s : State) : Result := .next s.startCommit

/-- CLEAR: the buffer is zeroed and its transmission starts, in one step (R141). -/
def execClear (s : State) : Result := .next (s.fillPixels .zero).startCommit

/-- The transmitter step Tx: one line operation, the one at POS, of the frame of the buffer as it stands (R142, R145). -/
def State.tx (s : State) : State := (s.applyOp (frameOp s.draw s.pb s.pos)).advance

end Sys2Proof.Machine
end

