-- ==== Sys2Proof/Machine/Dispatch.lean ====
section
/-! DEFINITION. The effect of each accepted command: one arm per constructor, one call of its meaning. -/

namespace Sys2Proof.Machine

def exec (i : Instr) (s : State) : Host.Outcome State Fault Refusal :=
  match i with
  | .setpixel idx r g b br => Sys2Proof.Machine.execSetpixel idx r g b br s
  | .setcolor idx r g b => Sys2Proof.Machine.execSetcolor idx r g b s
  | .setbright idx br => Sys2Proof.Machine.execSetbright idx br s
  | .setall r g b br => Sys2Proof.Machine.execSetall r g b br s
  | .read idx => Sys2Proof.Machine.execRead idx s
  | .showFrame => Sys2Proof.Machine.execShow s
  | .clear => Sys2Proof.Machine.execClear s
  | .setcoe en => Sys2Proof.Machine.execSetcoe en s

end Sys2Proof.Machine
end

