-- ==== Sys2Proof/Machine/Flags.lean ====
section
/-! DEFINITION. The status view: the outputs as pure functions of the state and of this cycle's pins (10_state.md R35,
R38), and when each step is enabled (R40). There are no condition codes: no command sets a carry, zero, sign or
overflow flag (R35). -/

namespace Sys2Proof.Machine

/-- The 2-bit code of FAULT, as driven on the `fault` output (R28, R181). -/
def FaultCode.bits : FaultCode → BitVec 2
  | .none => 0#2
  | .configurationError => 1#2
  | .indexOutOfRange => 2#2
  | .illegalCommand => 3#2

/-- The 1-bit encoding of ST (R25). -/
def Transport.bit : Transport → Bool
  | .idle => false
  | .transmitting => true

/-- `busy` (R35). -/
def State.busy (s : State) : Bool := s.st.bit

/-- FAULT != 0 or HALT = 1: no step but Reset is enabled (R28, R30, R174, R188). -/
def State.frozen (s : State) : Bool := decide (s.fault ≠ .none) || s.halt

/-- The conditions on the state under which a command is accepted (R40 step Cmd, R100). -/
def State.accepting (s : State) : Bool := !s.busy && !s.frozen && !s.exitp

/-- `cmd_ready` (R35). -/
def State.cmdReady (s : State) (p : Pins) : Bool := s.accepting && !p.exitReq && !p.rst

/-- RDV, the `rsp_valid` output (R34). -/
def State.rdv (s : State) : Bool :=
  match s.rdata with
  | .invalid => false
  | .valid _ => true

/-- The 160 bits of a record: `r` in 159:128, `g` in 127:96, `b` in 95:64, `br` in 63:0 (R34). -/
def Pixel.bits (p : Pixel) : BitVec 160 := p.r ++ p.g ++ p.b ++ p.br

/-- RDATA, the `rsp` output; no value while RDV = 0 (R34). -/
def State.rsp (s : State) : Option (BitVec 160) :=
  match s.rdata with
  | .invalid => none
  | .valid p => some p.bits

/-- The output pins of a cycle (R38). -/
structure Outputs where
  cmdReady : Bool
  data : Bool
  clock : Bool
  busy : Bool
  fault : BitVec 2
  finfo : BitVec 32
  halted : Bool
  rspValid : Bool
  rsp : Option (BitVec 160)
deriving DecidableEq, Repr

/-- The outputs the block drives in state `s` with the pins `p` (R35, R38). -/
def State.outputs (s : State) (p : Pins) : Outputs where
  cmdReady := s.cmdReady p
  data := s.data
  clock := s.clock
  busy := s.busy
  fault := s.fault.bits
  finfo := s.finfo
  halted := s.halt
  rspValid := s.rdv
  rsp := s.rsp

end Sys2Proof.Machine
end

