-- ==== Sys2Proof/Machine/Cycle.lean ====
section
/-! DEFINITION. One `clk` cycle: the first thing that applies, in the priority order of 60_exceptions.md R192. -/

namespace Sys2Proof.Machine

/-- An accepted command word: its command's effect, or IllegalCommand with the op byte as FINFO when the op is reserved
(R100, R184). The index is not looked at then (R192 item 5). -/
def acceptWord (w : CmdWord) (s : State) : Result :=
  match decode w with
  | .ok i => exec i s
  | .error (.reservedOp op) => .next (s.raise .illegalCommand (op.setWidth 32))

/-- One cycle with the pins `p` (R192): reset; nothing when frozen; the Tx step; the exit service or the latching of a
request; a command; nothing. The exit latch works beside the Tx step (R171). -/
def cycle (p : Pins) (s : State) : Result :=
  if p.rst then .next (s.resetTo p.cfgOk)
  else if s.frozen then .next s
  else if s.busy then .next (s.tx.latchExit p.exitReq)
  else if s.exitp || p.exitReq then .next s.exitCycle
  else if p.cmdValid then acceptWord p.cmd s
  else .next s

end Sys2Proof.Machine
end

