-- ==== Sys2Proof/Machine/Step.lean ====
section
/-! DEFINITION. The step of the machine: one `clk` cycle with the pins sampled from State.inputs (log entry 1). -/

namespace Sys2Proof.Machine

/-- One cycle: sample the pins, then do what R192 says. -/
def step (s : State) : Host.Outcome State Fault Refusal := cycle s.pins s.sampled

/-- The state whose next step accepts the command word of an opcode-table row: the host presents it in the next cycle
(log entry 1). -/
def State.withFetchWord (s : State) (nbits w : Nat) : State := s.presentWord (tableWord nbits w)

end Sys2Proof.Machine
end

