-- ==== Sys2Proof/Machine/Assembler.lean ====
section
/-! DEFINITION. The assembler of 30_encoding.md R85 and R86: from a line's text to its operands, from its operands to a
command, and from a command to its word (Decode.lean). It is no part of the block's step. -/

namespace Sys2Proof.Machine

/-! ## Operands -/

/-- An integer literal as a 32-bit two's complement operand (R74): -1 is 0xFFFFFFFF. -/
def operandOfInt (n : Int) : BitVec 32 := BitVec.ofInt 32 n

/-- The exponent `q` of the last place of the binary64 numbers near `num / den`: 53 significant bits are left above it,
and it is at least -1074. -/
def lastPlace (num den : Nat) : Int :=
  let approx : Int := (bitLength num : Int) - bitLength den
  let below := if 0 ≤ approx then decide (num < den * 2 ^ approx.toNat) else decide (num * 2 ^ (-approx).toNat < den)
  max ((if below then approx - 1 else approx) - 52) (-1074)

/-- `num / den` rounded to the nearest integer, a tie to the even one. -/
def roundDiv (num den : Nat) : Nat :=
  let q := num / den
  let r := num % den
  if den < 2 * r ∨ (2 * r = den ∧ q % 2 = 1) then q + 1 else q

/-- The raw bits of the binary64 number nearest to `(-1)^neg * num / den`, a tie to the even one, infinity beyond the
largest finite number (R85: "rounded to nearest"; log entry 11). -/
def binary64Nearest (neg : Bool) (num den : Nat) : Brightness :=
  let sign : Nat := if neg then 2 ^ 63 else 0
  if num = 0 then BitVec.ofNat 64 sign
  else
    let q := lastPlace num den
    let sig := if 0 ≤ q then roundDiv num (den * 2 ^ q.toNat) else roundDiv (num * 2 ^ (-q).toNat) den
    let magnitude := (q + 1074).toNat * 2 ^ 52 + sig
    BitVec.ofNat 64 (sign + min magnitude (0x7FF * 2 ^ 52))

/-- A brightness literal as its 64 raw bits (R85). -/
def BrLit.bits : BrLit → Brightness
  | .raw bits => bits
  | .decimal neg digits fracLen => binary64Nearest neg digits (10 ^ fracLen)

/-- The command of a line, when its operands fit (R85). -/
def assembleLine (l : AsmLine) : Option Instr :=
  if l.wellFormed then
    some (match l with
    | .setpixel idx r g b br =>
      .setpixel (operandOfInt idx) (operandOfInt r) (operandOfInt g) (operandOfInt b) (BrLit.bits br)
    | .setcolor idx r g b => .setcolor (operandOfInt idx) (operandOfInt r) (operandOfInt g) (operandOfInt b)
    | .setbright idx br => .setbright (operandOfInt idx) (BrLit.bits br)
    | .setall r g b br => .setall (operandOfInt r) (operandOfInt g) (operandOfInt b) (BrLit.bits br)
    | .read idx => .read (operandOfInt idx)
    | .showFrame => .showFrame
    | .clear => .clear
    | .setcoe en => .setcoe (en == 1))
  else none

/-! ## Text -/

/-- The value of a digit in a base up to 16. -/
def digitValue (base : Nat) (c : Char) : Option Nat :=
  let v :=
    if '0' ≤ c ∧ c ≤ '9' then c.toNat - 48
    else if 'a' ≤ c ∧ c ≤ 'f' then c.toNat - 87
    else if 'A' ≤ c ∧ c ≤ 'F' then c.toNat - 55
    else base
  if v < base then some v else none

/-- A non-empty list of digits, as a number. -/
def digits (base : Nat) : List Char → Option Nat
  | [] => none
  | cs => cs.foldlM (fun n c => (digitValue base c).map (base * n + ·)) 0

/-- A decimal, `0x` hexadecimal or `0b` binary number (R85). -/
def parseNat : List Char → Option Nat
  | '0' :: 'x' :: cs => digits 16 cs
  | '0' :: 'b' :: cs => digits 2 cs
  | cs => digits 10 cs

/-- An integer, with an optional leading `-` (R85). -/
def parseInt : List Char → Option Int
  | '-' :: cs => (parseNat cs).map fun n => -(n : Int)
  | cs => (parseNat cs).map fun n => (n : Int)

/-- An unsigned decimal brightness: digits, and after a point more digits. -/
def parseDecimal (neg : Bool) (cs : List Char) : Option BrLit :=
  match cs.span (· != '.') with
  | (whole, []) => (digits 10 whole).map fun n => .decimal neg n 0
  | (whole, _ :: frac) =>
    (digits 10 whole).bind fun n =>
      (digits 10 frac).map fun f => .decimal neg (n * 10 ^ frac.length + f) frac.length

/-- A brightness: `raw:0x` and 16 hexadecimal digits, or a decimal with an optional `-` (R85). -/
def parseBr : List Char → Option BrLit
  | 'r' :: 'a' :: 'w' :: ':' :: '0' :: 'x' :: cs =>
    if cs.length = 16 then (digits 16 cs).map fun n => .raw (BitVec.ofNat 64 n) else none
  | '-' :: cs => parseDecimal true cs
  | cs => parseDecimal false cs

/-- A line's operands: what stands between the commas, without spaces. -/
def splitOperands (cs : List Char) : List (List Char) :=
  match cs.filter (· != ' ') with
  | [] => []
  | kept => kept.splitOn ','

/-- A line of assembler: a mnemonic and comma-separated operands in the source's order (R85). `setPixelWithBright` is
SETPIXEL (R86) in the source's spelling, not an assembler mnemonic. -/
def parseLine (cs : List Char) : Option AsmLine :=
  let (name, rest) := cs.span (· != ' ')
  match splitOperands rest with
  | [] =>
    if name = ['S', 'H', 'O', 'W'] then some .showFrame
    else if name = ['C', 'L', 'E', 'A', 'R'] then some .clear
    else none
  | [x] =>
    if name = ['R', 'E', 'A', 'D'] then (parseInt x).map .read
    else if name = ['S', 'E', 'T', 'C', 'O', 'E'] then (parseInt x).map .setcoe
    else none
  | [x, br] =>
    if name = ['S', 'E', 'T', 'B', 'R', 'I', 'G', 'H', 'T'] then do
      return .setbright (← parseInt x) (← parseBr br)
    else none
  | [x, y, z, u] =>
    if name = ['S', 'E', 'T', 'C', 'O', 'L', 'O', 'R'] then do
      return .setcolor (← parseInt x) (← parseInt y) (← parseInt z) (← parseInt u)
    else if name = ['S', 'E', 'T', 'A', 'L', 'L'] then do
      return .setall (← parseInt x) (← parseInt y) (← parseInt z) (← parseBr u)
    else none
  | [x, y, z, u, br] =>
    if name = ['S', 'E', 'T', 'P', 'I', 'X', 'E', 'L'] then do
      return .setpixel (← parseInt x) (← parseInt y) (← parseInt z) (← parseInt u) (← parseBr br)
    else none
  | _ => none

/-- The command word of a line of assembler, its unused fields zero (R77, R85). -/
def assembleText (cs : List Char) : Option CmdWord :=
  ((parseLine cs).bind assembleLine).map encode

end Sys2Proof.Machine
end

