-- ==== Sys2Proof/Machine/Wire.lean ====
section
/-! DEFINITION. What appears on the wire (42_commit_transmit.md R148, R153), the wire bits and positions of one commit as
the spec's tables give them (30_encoding.md R83, 41_encode.md R131), and the observations of 70_reset_and_hazards.md R228.
None of it is state: all are functions of TRACE and of the buffer. -/

namespace Sys2Proof.Machine

/-- The levels of the two lines. -/
structure Levels where
  data : Bool
  clock : Bool
deriving DecidableEq, Repr

/-- Both lines low, as they are after reset and in Idle (R39, R41 (a)). -/
def Levels.low : Levels := ⟨false, false⟩

/-- The levels after one line operation; it changes at most one line (R146). -/
def Levels.apply (l : Levels) : LineOp → Levels
  | .d0 => { l with data := false }
  | .d1 => { l with data := true }
  | .ch => { l with clock := true }
  | .cl => { l with clock := false }

/-- The levels after a list of operations. -/
def Levels.after (l : Levels) (ops : List LineOp) : Levels := ops.foldl Levels.apply l

/-- The DATA level at each CH operation that finds CLOCK at 0, from the levels `l` on (R148). -/
def sampledFrom (l : Levels) : List LineOp → List Bool
  | [] => []
  | op :: ops =>
    if op = .ch ∧ l.clock = false then l.data :: sampledFrom (l.apply op) ops else sampledFrom (l.apply op) ops

/-- `Sampled(TRACE)` of a trace since reset (R148). -/
def sampledBits (trace : List LineOp) : List Bool := sampledFrom .low trace

/-- The levels after each operation. -/
def levelsFrom (l : Levels) : List LineOp → List Levels
  | [] => []
  | op :: ops => l.apply op :: levelsFrom (l.apply op) ops

/-- The level trace: the pairs (DATA, CLOCK) after each operation, consecutive equal pairs merged (R153). -/
def levelTrace (trace : List LineOp) : List Levels := (levelsFrom .low trace).destutter (· ≠ ·)

/-- What a claim about a run is stated through (R228). -/
structure Observation where
  sampled : List Bool
  levels : List Levels
  trace : List LineOp
  pb : Buffer
  rdata : ReadData
  fault : FaultCode
  finfo : BitVec 32
  halt : Bool
deriving DecidableEq, Repr

/-- The observation of a state (R228). -/
def State.observe (s : State) : Observation where
  sampled := sampledBits s.trace
  levels := levelTrace s.trace
  trace := s.trace
  pb := s.pb
  rdata := s.rdata
  fault := s.fault
  finfo := s.finfo
  halt := s.halt

/-- The pixel at a place computed by one of the two tables below; both compute places 0 to 7 only, so it never wraps. -/
def pixelAt (pb : Buffer) (i : Nat) : Pixel := pb[Fin.ofNat Config.nPix i]

/-- Wire bit `n` of a commit, 0 to 323, as R83 gives it. -/
def wireBit (draw : Nat → BrCode) (pb : Buffer) (n : Nat) : Bool :=
  if n < 32 then false
  else if n < 288 then
    let i := (n - 32) / 32
    (pixelWord (draw i) (pixelAt pb i)).getLsbD (31 - (n - 32) % 32)
  else false

/-- The whole commit on the wire, 324 bits (R83). -/
def wireBits (draw : Nat → BrCode) (pb : Buffer) : List Bool :=
  (List.range Config.cyclesPerCommit).map (wireBit draw pb)

/-- Byte `c` of a pixel frame: 0 brightness, 1 blue, 2 green, 3 red (R131). -/
def frameByte (draw : BrCode) (p : Pixel) (c : Nat) : WireByte :=
  if c = 0 then brByte draw p.br
  else if c = 1 then colByte p.b
  else if c = 2 then colByte p.g
  else colByte p.r

/-- A clock operation of a reset frame, by the parity of its place among them: CH if even, CL if odd (R131). -/
def pulseOp (j : Nat) : LineOp := if j % 2 = 0 then .ch else .cl

/-- The place of the `m`-th CH of a commit, `m` = 0..323 (R131). -/
def chPosition (m : Nat) : Nat :=
  if m < 32 then 1 + 2 * m
  else if m < 288 then 65 + 3 * (m - 32) + 1
  else 834 + 2 * (m - 288)

/-- The other reading of a reset frame that R153 mentions: DATA driven low anew before each of the `n` pulses. -/
def resetFramePerPulse : Nat → List LineOp
  | 0 => []
  | n + 1 => .d0 :: .ch :: .cl :: resetFramePerPulse n

/-- The position map: what `Frame(PB)[k]` is, for `k` = 0..905 (R131). -/
def positionMap (draw : Nat → BrCode) (pb : Buffer) (k : Nat) : LineOp :=
  if k = 0 then .d0
  else if k ≤ 64 then pulseOp (k - 1)
  else if k ≤ 832 then
    let q := k - 65
    let y := q / 24
    let i := y / 4
    let n := q % 24 / 3
    if q % 3 = 0 then dataOp ((frameByte (draw i) (pixelAt pb i) (y % 4)).getLsbD (7 - n))
    else if q % 3 = 1 then .ch
    else .cl
  else if k = 833 then .d0
  else pulseOp (k - 834)

end Sys2Proof.Machine
end

