-- ==== Sys2Proof/Safety.lean ====
section
/-! DEFINITION. Launch premises and the end of a run (70_reset_and_hazards.md R225, R227), and the invariants of every
state reached from reset (10_state.md R41 and what the other rules imply). -/

namespace Sys2Proof.Machine

/-- NoFault (R227). -/
def State.noFault (s : State) : Bool := decide (s.fault = .none)

/-- IdleQuiet (R227): ST = Idle, EXITP = 0, HALT = 0. -/
def State.idleQuiet (s : State) : Bool := !s.busy && !s.exitp && !s.halt

/-- NominalBrightness (R227): every brightness of the buffer is outside the undefined range of R124. -/
def nominalBrightness (pb : Buffer) : Prop := ∀ i : Fin Config.nPix, undefinedBr pb[i].br = false

/-- The host has no more commands to present (R225). -/
def State.hostDone (s : State) : Bool := s.inputs.all fun p => !p.cmdValid

/-- The environment gives no reset and no exit request any more. -/
def State.envQuiet (s : State) : Bool := s.inputs.all fun p => !p.rst && !p.exitReq

/-- A good end of a run (R225): no more commands, and either Idle with nothing pending or halted, without a fault. -/
def State.goodEnd (s : State) : Bool := s.hostDone && s.noFault && (s.idleQuiet || s.halt)

/-- CleanReset (R227), up to the fields that are the model's own: every register as reset with `cfg_ok` = 1 leaves it. -/
def State.cleanReset (s : State) : Prop := s = s.resetTo true

/-- BufferIs(v) (R227). -/
def State.bufferIs (v : Buffer) (s : State) : Prop := s.pb = v

/-- No reset in the next `n` cycles. -/
def State.noResetFor (n : Nat) (s : State) : Bool := (s.inputs.take n).all fun p => !p.rst

/-- `n` cycles one after the other, the run of a machine as Host.Core.run makes it. -/
def runCycles : Nat → State → Result
  | 0, s => .next s
  | n + 1, s =>
    match step s with
    | .next t => runCycles n t
    | .fault r => .fault r
    | .refused r => .refused r

/-- What FINFO holds beside each value of FAULT (R29, R181). -/
def FaultCode.infoOk : FaultCode → BitVec 32 → Bool
  | .none, info => info == 0#32
  | .configurationError, info => info == 0#32
  | .indexOutOfRange, info => (pixelIndex info).isNone
  | .illegalCommand, info =>
    decide (info.toNat < 256) && (formatOfOp (info.setWidth 8)).isNone

/-- The invariants of R41 (a), (b), (d), (e), (f), and (c) as far as a state shows it. -/
structure State.RegistersOk (s : State) : Prop where
  /-- R41 (a). -/
  idleLow : s.st = .idle → s.data = false ∧ s.clock = false ∧ s.pos = 0
  /-- R41 (b). -/
  txLive : s.st = .transmitting → s.fault = .none ∧ s.halt = false
  /-- R41 (c): after a ConfigurationError nothing has ever been accepted or sent. -/
  neverStarted : s.fault = .configurationError →
    s.trace = [] ∧ s.commits = 0 ∧ s.pb = Buffer.zero ∧ s.coe = false ∧ s.exitp = false ∧ s.rdata = .invalid
  /-- R41 (d). -/
  haltIdle : s.halt = true → s.st = .idle ∧ s.exitp = true
  /-- R41 (e). -/
  finalPending : s.finalSent = true → s.exitp = true ∧ s.coe = true
  /-- R41 (f). -/
  traceLength : s.trace.length = Config.opsPerCommit * s.commits + s.pos.val
  /-- R29, R181. -/
  faultInfo : s.fault.infoOk s.finfo = true

/-- The invariants of the exit hook: a fault and a pending exit exclude each other (R100, R171, R191), the buffer is zero
from the final clear on (R172, R173), and the block halts with the registration enabled only after the final clear
(R173). -/
structure State.ExitOk (s : State) : Prop where
  pendingNoFault : s.exitp = true → s.fault = .none
  finalPending : s.finalSent = true → s.exitp = true
  finalZero : s.finalSent = true → s.pb = Buffer.zero
  haltPending : s.halt = true → s.exitp = true ∧ s.st = .idle
  haltCleared : s.halt = true → s.coe = true → s.finalSent = true

/-- The invariants of the lines and the trace: the lines stand as the trace since reset left them (R24, R36, R146), and
while a commit is under way the trace ends in the part of its frame that has been sent (R142, R145). -/
structure State.WireOk (s : State) : Prop where
  levels : Levels.after .low s.trace = ⟨s.data, s.clock⟩
  idle : s.st = .idle → s.data = false ∧ s.clock = false ∧ s.pos = 0
  length : s.trace.length = Config.opsPerCommit * s.commits + s.pos.val
  sent : s.trace.drop (Config.opsPerCommit * s.commits) = (frame s.draw s.pb).take s.pos.val

end Sys2Proof.Machine
end

