-- ==== Sys2Proof/Certificates/Slice0/Obligations.lean ====
section
/-! DEFINITION. The statements for the provers, from the numbered rules of spec/. A next state `t` is described by its new
values and by `t = { s with … }`, which says that everything not named there is unchanged. Where a statement names
`freeIndex`, `inputs` or `commits`, that is the model's own bookkeeping (log entries 1, 3, 7), not the spec's. -/

open Sys2Proof Sys2Proof.Machine

/-! ## Encoding (30_encoding.md) -/

/-- Decoding the word of any command gives that command back, with every operand at every value (R70 to R76). -/
def Obligations.DecodeOfEncode : Prop := ∀ i : Instr, decode (encode i) = .ok i

/-- A word whose unused fields are zero is the word of the command it decodes to: the two tables agree the other way
round too (R71, R72, R77). -/
def Obligations.EncodeOfCanonicalWord : Prop :=
  ∀ (w : CmdWord) (i : Instr), canonicalWord w = true → decode w = .ok i → encode i = w

/-- R77: two words with the same op byte that agree on every bit outside the ranges their format ignores are the same
command, and the word the assembler writes for a command has zeros there. -/
def Obligations.UnusedFieldsAreIgnored : Prop :=
  (∀ (i : Instr) (range : Nat × Nat), range ∈ i.format.ignored → (encode i).extractLsb' range.1 range.2 = 0) ∧
  ∀ (w w' : CmdWord) (f : Format), formatOfOp (fieldOp w) = some f →
    (∀ k, k < 200 → (∀ range ∈ f.ignored, k < range.1 ∨ range.1 + range.2 ≤ k) → w.getLsbD k = w'.getLsbD k) →
    decode w = decode w'

/-- R78, R184: a word with op 0x00 or 0x09 to 0xFF, when accepted, raises IllegalCommand with FINFO the zero-extended op
and changes nothing else, and every other op is a command. -/
def Obligations.ReservedOpRaisesIllegalCommand : Prop :=
  ∀ (w : CmdWord) (s : State),
    ((fieldOp w = 0x00#8 ∨ 0x09#8 ≤ fieldOp w) →
      acceptWord w s = .next { s with fault := .illegalCommand, finfo := (fieldOp w).setWidth 32 }) ∧
    (0x01#8 ≤ fieldOp w → fieldOp w ≤ 0x08#8 → ∃ i, decode w = .ok i ∧ acceptWord w s = exec i s)

/-- Words of the programs of 95_test_vectors.md section 3 and of its section 2.7 decode as written there. -/
def Obligations.WordsOfTheSpecDecode : Prop :=
  decode 0x01_00000007_00000000_00000000_000000FF_3FF0000000000000#200
      = .ok (.setpixel 7 0 0 255 0x3FF0000000000000#64) ∧
    decode 0x02_00000003_0000012C_FFFFFFFF_00000100_0000000000000000#200 = .ok (.setcolor 3 300 (-1) 256) ∧
    decode 0x03_00000003_00000000_00000000_00000000_3FF8000000000000#200 = .ok (.setbright 3 0x3FF8000000000000#64) ∧
    decode 0x04_00000000_00000001_00000002_00000003_3FD0000000000000#200
      = .ok (.setall 1 2 3 0x3FD0000000000000#64) ∧
    decode 0x05_00000003_00000000_00000000_00000000_0000000000000000#200 = .ok (.read 3) ∧
    decode 0x06_00000000_00000000_00000000_00000000_0000000000000000#200 = .ok .showFrame ∧
    decode 0x07_00000000_00000000_00000000_00000000_0000000000000000#200 = .ok .clear ∧
    decode 0x08_00000001_00000000_00000000_00000000_0000000000000000#200 = .ok (.setcoe true) ∧
    decode 0x00_00000000_00000000_00000000_00000000_0000000000000000#200 = .error (.reservedOp 0) ∧
    decode 0xFF_00000000_00000000_00000000_00000000_0000000000000000#200 = .error (.reservedOp 0xFF)

/-! ## The commands: encoding, result, fault and frame (40_buffer_commands.md, 42_commit_transmit.md, 43_system.md) -/

/-- R101: SETPIXEL, op 0x01, writes all four fields of PB[idx] and nothing else; outside 0..7 it raises IndexOutOfRange
with FINFO = idx and changes nothing else. -/
def Obligations.SetpixelWritesAllFourFields : Prop :=
  (∀ w : CmdWord, w.extractLsb' 192 8 = 0x01#8 → decode w = .ok (.setpixel (w.extractLsb' 160 32)
    (w.extractLsb' 128 32) (w.extractLsb' 96 32) (w.extractLsb' 64 32) (w.extractLsb' 0 64))) ∧
  ∀ (s : State) (idx : Index) (r g b : Colour) (br : Brightness),
    (∀ i : Fin 8, idx.toInt = i.val → ∃ t, exec (.setpixel idx r g b br) s = .next t ∧
      t.pb[i] = ⟨r, g, b, br⟩ ∧ (∀ j : Fin 8, j ≠ i → t.pb[j] = s.pb[j]) ∧ t = { s with pb := t.pb }) ∧
    (idx.toInt < 0 ∨ 7 < idx.toInt →
      exec (.setpixel idx r g b br) s = .next { s with fault := .indexOutOfRange, finfo := idx })

/-- R102: SETCOLOR, op 0x02, writes r, g, b of PB[idx], keeps its brightness bit for bit, and changes nothing else;
outside 0..7 it raises IndexOutOfRange. -/
def Obligations.SetcolorKeepsBrightness : Prop :=
  (∀ w : CmdWord, w.extractLsb' 192 8 = 0x02#8 → decode w = .ok (.setcolor (w.extractLsb' 160 32)
    (w.extractLsb' 128 32) (w.extractLsb' 96 32) (w.extractLsb' 64 32))) ∧
  ∀ (s : State) (idx : Index) (r g b : Colour),
    (∀ i : Fin 8, idx.toInt = i.val → ∃ t, exec (.setcolor idx r g b) s = .next t ∧
      t.pb[i] = ⟨r, g, b, s.pb[i].br⟩ ∧ (∀ j : Fin 8, j ≠ i → t.pb[j] = s.pb[j]) ∧ t = { s with pb := t.pb }) ∧
    (idx.toInt < 0 ∨ 7 < idx.toInt →
      exec (.setcolor idx r g b) s = .next { s with fault := .indexOutOfRange, finfo := idx })

/-- R103: SETBRIGHT, op 0x03, writes br of PB[idx], keeps its colours, and changes nothing else; outside 0..7 it raises
IndexOutOfRange. -/
def Obligations.SetbrightKeepsColour : Prop :=
  (∀ w : CmdWord, w.extractLsb' 192 8 = 0x03#8 →
    decode w = .ok (.setbright (w.extractLsb' 160 32) (w.extractLsb' 0 64))) ∧
  ∀ (s : State) (idx : Index) (br : Brightness),
    (∀ i : Fin 8, idx.toInt = i.val → ∃ t, exec (.setbright idx br) s = .next t ∧
      t.pb[i] = ⟨s.pb[i].r, s.pb[i].g, s.pb[i].b, br⟩ ∧ (∀ j : Fin 8, j ≠ i → t.pb[j] = s.pb[j]) ∧
      t = { s with pb := t.pb }) ∧
    (idx.toInt < 0 ∨ 7 < idx.toInt →
      exec (.setbright idx br) s = .next { s with fault := .indexOutOfRange, finfo := idx })

/-- R104: SETALL, op 0x04, writes the record to all 8 entries and changes nothing else; it has no index and no fault. -/
def Obligations.SetallWritesEveryPixel : Prop :=
  (∀ w : CmdWord, w.extractLsb' 192 8 = 0x04#8 → decode w = .ok (.setall (w.extractLsb' 128 32)
    (w.extractLsb' 96 32) (w.extractLsb' 64 32) (w.extractLsb' 0 64))) ∧
  ∀ (s : State) (r g b : Colour) (br : Brightness), ∃ t, exec (.setall r g b br) s = .next t ∧
    (∀ i : Fin 8, t.pb[i] = ⟨r, g, b, br⟩) ∧ t = { s with pb := t.pb }

/-- R105: READ, op 0x05, copies PB[idx] into RDATA as stored, sets RDV, and changes nothing else, PB included; outside
0..7 it raises IndexOutOfRange, RDATA and RDV keeping their values; no cycle but reset and an accepted READ changes RDATA
or RDV. -/
def Obligations.ReadCopiesTheRecord : Prop :=
  (∀ w : CmdWord, w.extractLsb' 192 8 = 0x05#8 → decode w = .ok (.read (w.extractLsb' 160 32))) ∧
  (∀ (s : State) (idx : Index),
    (∀ i : Fin 8, idx.toInt = i.val → ∃ t, exec (.read idx) s = .next t ∧ t.rdv = true ∧
      t.rsp = some (s.pb[i].r ++ s.pb[i].g ++ s.pb[i].b ++ s.pb[i].br) ∧ t = { s with rdata := t.rdata }) ∧
    (idx.toInt < 0 ∨ 7 < idx.toInt →
      exec (.read idx) s = .next { s with fault := .indexOutOfRange, finfo := idx })) ∧
  (∀ s t : State, s.pins.rst = false → step s = .next t → t.rdata ≠ s.rdata →
    s.cmdReady s.pins = true ∧ s.pins.cmdValid = true ∧ fieldOp s.pins.cmd = 0x05#8)

/-- R140, the accepting step: SHOW, op 0x06, sets ST to Transmitting and POS to 0 and changes nothing else (the
free-value index of log entry 3 aside); `busy` is then 1 and `cmd_ready` 0, whatever the pins. -/
def Obligations.ShowStartsTheTransmission : Prop :=
  (∀ w : CmdWord, w.extractLsb' 192 8 = 0x06#8 → decode w = .ok .showFrame) ∧
  ∀ s : State, ∃ t, exec .showFrame s = .next t ∧ t.st = .transmitting ∧ t.pos = 0 ∧ t.busy = true ∧
    (∀ p, t.cmdReady p = false) ∧ t = { s with st := t.st, pos := t.pos, freeIndex := t.freeIndex }

/-- R141, R86: CLEAR, op 0x07, zeroes all 8 entries and starts the transmission in one step, changes nothing else, and
does exactly what SETALL 0, 0, 0, +0.0 and then SHOW do. -/
def Obligations.ClearZeroesAndTransmits : Prop :=
  (∀ w : CmdWord, w.extractLsb' 192 8 = 0x07#8 → decode w = .ok .clear) ∧
  ∀ s : State, ∃ t, exec .clear s = .next t ∧ (∀ i : Fin 8, t.pb[i] = ⟨0#32, 0#32, 0#32, 0#64⟩) ∧
    t.st = .transmitting ∧ t.pos = 0 ∧
    t = { s with pb := t.pb, st := t.st, pos := t.pos, freeIndex := t.freeIndex } ∧
    ∃ u, exec (.setall 0 0 0 0) s = .next u ∧ exec .showFrame u = .next t

/-- R170: SETCOE, op 0x08, sets COE to bit 160 and changes nothing else; once EXITP = 1 no cycle but reset changes COE. -/
def Obligations.SetcoeWritesCoe : Prop :=
  (∀ w : CmdWord, w.extractLsb' 192 8 = 0x08#8 → decode w = .ok (.setcoe (w.getLsbD 160))) ∧
  (∀ (s : State) (en : Bool), exec (.setcoe en) s = .next { s with coe := en }) ∧
  (∀ s t : State, s.exitp = true → s.pins.rst = false → step s = .next t → t.coe = s.coe)

/-- D10, R51: an indexed command on a block without a fault faults exactly when the UNSIGNED operand exceeds 7; the
signed test of R51 refuses the same patterns, and no pattern is wrapped or clamped. -/
def Obligations.IndexTestIsTheUnsignedOne : Prop :=
  ∀ (s t : State) (idx : Index) (i : Instr), s.fault = .none →
    (i = .read idx ∨ (∃ br, i = .setbright idx br) ∨ (∃ r g b, i = .setcolor idx r g b) ∨
      (∃ r g b br, i = .setpixel idx r g b br)) →
    exec i s = .next t → (t.fault = .indexOutOfRange ↔ 7 < idx.toNat)

/-- R52, R60, the properties S1 and S2 of 95_test_vectors.md: what READ returns after each mutator. -/
def Obligations.ReadAfterEachMutator : Prop :=
  ∀ (s : State) (idx : Index) (i : Fin 8) (r g b : Colour) (br : Brightness), idx.toInt = i.val →
    (∃ t u, exec (.setcolor idx r g b) s = .next t ∧ exec (.read idx) t = .next u ∧
      u.rdata = .valid ⟨r, g, b, s.pb[i].br⟩) ∧
    (∃ t u, exec (.setbright idx br) s = .next t ∧ exec (.read idx) t = .next u ∧
      u.rdata = .valid ⟨s.pb[i].r, s.pb[i].g, s.pb[i].b, br⟩) ∧
    (∃ t u, exec (.setpixel idx r g b br) s = .next t ∧ exec (.read idx) t = .next u ∧
      u.rdata = .valid ⟨r, g, b, br⟩) ∧
    (∃ t u, exec (.setall r g b br) s = .next t ∧ exec (.read idx) t = .next u ∧ u.rdata = .valid ⟨r, g, b, br⟩)

/-- R100, R58: no command but SHOW and CLEAR, whatever its operands, changes ST, POS, DATA, CLOCK or TRACE, no command at
all changes EXITP, FINAL or HALT or a line, and none but SETCOE changes COE. -/
def Obligations.CommandsLeaveTheLinesAlone : Prop :=
  ∀ (i : Instr) (s t : State), exec i s = .next t →
    t.data = s.data ∧ t.clock = s.clock ∧ t.trace = s.trace ∧ t.exitp = s.exitp ∧ t.finalSent = s.finalSent ∧
    t.halt = s.halt ∧ (i.format ≠ .bare → t.st = s.st ∧ t.pos = s.pos) ∧ (i.format ≠ .enable → t.coe = s.coe)

/-! ## The step (10_state.md R40, 60_exceptions.md R192) -/

/-- R100, R192 item 5: when the block accepts commands and the pins present any word, with no reset and no exit request,
the step accepts that word on the state with that sample of the pins taken (log entry 1): it is `exec i` there if the
word decodes to `i`, and it raises IllegalCommand with FINFO the zero-extended op and changes nothing else if the op is
reserved (R78, R184). -/
def Obligations.StepRunsTheAcceptedCommand : Prop :=
  ∀ (s : State) (c : Bool) (w : CmdWord) (rest : List Pins), s.accepting = true →
    s.inputs = ⟨false, c, true, w, false⟩ :: rest →
    step s = acceptWord w { s with inputs := rest } ∧
    (∀ i : Instr, decode w = .ok i → step s = exec i { s with inputs := rest }) ∧
    (fieldOp w = 0x00#8 ∨ 0x09#8 ≤ fieldOp w →
      step s = .next { s with fault := .illegalCommand, finfo := (fieldOp w).setWidth 32, inputs := rest })

/-- R192 items 2 and 6: in Idle, frozen or not, with no reset, no exit pending or requested and no word presented, a cycle
does nothing. That it is a next state with the sample of the pins taken is the model's form (log entries 1 and 10). -/
def Obligations.QuietCycleDoesNothing : Prop :=
  ∀ s : State, s.st = .idle → s.pins.rst = false → s.exitp = false → s.pins.exitReq = false →
    s.pins.cmdValid = false → step s = .next { s with inputs := s.inputs.tail }

/-- Every step answers a next state, whatever the state and the pins, and takes one sample of the pins. This is the model's
form, not the spec's words: a cycle takes a sample of the pins (log entry 1), and a faulted or halted block, in which R40
and R186 enable no step but Reset and R192 item 2 says 'nothing', answers the next state in which nothing has changed (log
entry 10). -/
def Obligations.StepAlwaysAnswersNext : Prop :=
  ∀ s : State, ∃ t, step s = .next t ∧ t.inputs = s.inputs.tail

/-- R100, R217: in a cycle with `cmd_ready` = 0 the word presented, or none, makes no difference. -/
def Obligations.WordNotReadyHasNoEffect : Prop :=
  ∀ (s : State) (p : Pins) (rest : List Pins) (v : Bool) (w : CmdWord), s.inputs = p :: rest →
    s.cmdReady p = false → step { s with inputs := { p with cmdValid := v, cmd := w } :: rest } = step s

/-- R210, R212, R39: in a cycle with `rst` = 1, in whatever state, every register takes its reset value and FAULT the value
`cfg_ok` decides. The clauses on `commits`, `freeIndex` and `inputs` are the model's own bookkeeping (log entries 7, 3
and 1). -/
def Obligations.ResetSetsEveryRegister : Prop :=
  ∀ (s : State) (p : Pins) (rest : List Pins), s.inputs = p :: rest → p.rst = true →
    ∃ t, step s = .next t ∧ (∀ i : Fin 8, t.pb[i] = ⟨0#32, 0#32, 0#32, 0#64⟩) ∧ t.data = false ∧ t.clock = false ∧
      t.st = .idle ∧ t.pos = 0 ∧ t.fault = (if p.cfgOk then .none else .configurationError) ∧ t.finfo = 0#32 ∧
      t.halt = false ∧ t.coe = false ∧ t.exitp = false ∧ t.finalSent = false ∧ t.rdv = false ∧ t.trace = [] ∧
      t.commits = 0 ∧ t.freeIndex = s.freeIndex ∧ t.inputs = rest

/-- R174 (HALT = 1) and R186, R188, R192 item 2 (FAULT != 0): no step but Reset does anything: every register and both
lines hold their values whatever the other pins are, and `cmd_ready` = 0. That such a cycle is a next state with its
sample of the pins taken is the model's form (log entries 1 and 10). -/
def Obligations.FrozenBlockHoldsEverything : Prop :=
  ∀ s : State, (s.halt = true ∨ s.fault ≠ .none) → s.pins.rst = false →
    step s = .next { s with inputs := s.inputs.tail } ∧ s.cmdReady s.pins = false

/-- R28, R30, R32, R33, R188, R191: FAULT with FINFO, HALT, EXITP and FINAL, once set, are cleared by no step but reset. -/
def Obligations.StickyRegistersOnlyResetClears : Prop :=
  ∀ s t : State, s.pins.rst = false → step s = .next t →
    (s.fault ≠ .none → t.fault = s.fault ∧ t.finfo = s.finfo) ∧ (s.halt = true → t.halt = true) ∧
    (s.exitp = true → t.exitp = true) ∧ (s.finalSent = true → t.finalSent = true)

/-- R142, R143, R146, R27: while Transmitting, a cycle without reset performs the one line operation at POS of Frame(PB),
moves POS on (905 to 0 and Idle), latches a high `exit_req`, and changes nothing else. That EVERY such cycle is a Tx step is
the model's choice (log entry 6: PHASE_CYCLES = 1; R192 item 3 and D15 leave the phase timer open), and the draws and the
count of commits are its bookkeeping (log entries 3 and 7). -/
def Obligations.TxPerformsOneLineOperation : Prop :=
  ∀ s : State, s.st = .transmitting → s.frozen = false → s.pins.rst = false →
    ∃ t op, step s = .next t ∧ (frame s.draw s.pb)[s.pos.val]? = some op ∧ t.trace = s.trace ++ [op] ∧
      t.data = (if op = .d0 then false else if op = .d1 then true else s.data) ∧
      t.clock = (if op = .cl then false else if op = .ch then true else s.clock) ∧
      (s.pos.val = 905 → t.pos.val = 0 ∧ t.st = .idle ∧ t.commits = s.commits + 1) ∧
      (s.pos.val < 905 → t.pos.val = s.pos.val + 1 ∧ t.st = .transmitting ∧ t.commits = s.commits) ∧
      t.exitp = (s.exitp || s.pins.exitReq) ∧
      t = { s with data := t.data, clock := t.clock, pos := t.pos, st := t.st, trace := t.trace, exitp := t.exitp,
                   commits := t.commits, inputs := s.inputs.tail }

/-- R171: a high `exit_req` sets EXITP in any cycle without reset in which the block is not frozen, whether it transmits
or not; `cmd_ready` is 0 in that cycle and in the next state; on a frozen block it does nothing. -/
def Obligations.ExitRequestIsLatched : Prop :=
  ∀ s t : State, s.pins.rst = false → s.pins.exitReq = true → step s = .next t →
    s.cmdReady s.pins = false ∧ (s.frozen = false → t.exitp = true ∧ ∀ p, t.cmdReady p = false) ∧
    (s.frozen = true → t.exitp = s.exitp)

/-- R172: in Idle with EXITP = 1, COE = 1, FINAL = 0 and no fault or halt, the exit service zeroes the buffer, sets FINAL
and starts the transmission, and changes nothing else (the free-value index of log entry 3 aside). That the pending request
is served in this very cycle is the model's reading (log entry 4, DEDUCED: R192 item 4 says the same or the next cycle). -/
def Obligations.ExitServiceStartsTheFinalClear : Prop :=
  ∀ s : State, s.st = .idle → s.exitp = true → s.frozen = false → s.coe = true → s.finalSent = false →
    s.pins.rst = false → ∃ t, step s = .next t ∧ (∀ i : Fin 8, t.pb[i] = ⟨0#32, 0#32, 0#32, 0#64⟩) ∧
      t.finalSent = true ∧ t.st = .transmitting ∧ t.pos = 0 ∧
      t = { s with pb := t.pb, finalSent := t.finalSent, st := t.st, pos := t.pos, freeIndex := t.freeIndex,
                   inputs := s.inputs.tail }

/-- R173: in Idle with EXITP = 1 and no fault or halt, the exit service halts the block when COE = 0 or FINAL = 1, and
changes nothing else. That the pending request is served in this very cycle is the model's reading (log entry 4, DEDUCED:
R192 item 4 says the same or the next cycle). -/
def Obligations.ExitServiceHalts : Prop :=
  ∀ s : State, s.st = .idle → s.exitp = true → s.frozen = false → (s.coe = false ∨ s.finalSent = true) →
    s.pins.rst = false → step s = .next { s with halt := true, inputs := s.inputs.tail }

/-- R171 to R173, R192 item 4: the Idle cycle in which `exit_req` is first seen (EXITP = 0) sets EXITP, whatever word is
presented; and, in that cycle or not (a free value, log entry 4), the exit service acts on that state: the final clear
starts if COE = 1 and FINAL = 0, and otherwise the block halts. Nothing else changes, the free-value index and the sample
of the pins aside (log entries 3 and 1). -/
def Obligations.ExitRequestFirstSeenInIdle : Prop :=
  ∀ s : State, s.st = .idle → s.exitp = false → s.frozen = false → s.pins.rst = false → s.pins.exitReq = true →
    ∃ t, step s = .next t ∧
      (t = { s with exitp := true, freeIndex := t.freeIndex, inputs := s.inputs.tail } ∨
        (s.coe = true ∧ s.finalSent = false ∧ (∀ i : Fin 8, t.pb[i] = ⟨0#32, 0#32, 0#32, 0#64⟩) ∧
          t = { s with exitp := true, pb := t.pb, finalSent := true, st := .transmitting, pos := 0,
                       freeIndex := t.freeIndex, inputs := s.inputs.tail }) ∨
        ((s.coe = false ∨ s.finalSent = true) ∧
          t = { s with exitp := true, halt := true, freeIndex := t.freeIndex, inputs := s.inputs.tail }))

/-- R24, R58, R36: outside a transmission no cycle but reset drives a line or adds to TRACE; a cycle that accepts SHOW or
starts the final clear is no exception. -/
def Obligations.OnlyTheTransmitterDrivesTheLines : Prop :=
  ∀ s t : State, s.st = .idle → s.pins.rst = false → step s = .next t →
    t.data = s.data ∧ t.clock = s.clock ∧ t.trace = s.trace

/-- R35: the outputs as functions of the state and the pins. -/
def Obligations.StatusView : Prop :=
  ∀ (s : State) (p : Pins),
    ((s.outputs p).busy = true ↔ s.st = .transmitting) ∧
    ((s.outputs p).fault.toNat = match s.fault with
      | .none => 0 | .configurationError => 1 | .indexOutOfRange => 2 | .illegalCommand => 3) ∧
    (s.outputs p).finfo = s.finfo ∧ (s.outputs p).halted = s.halt ∧
    ((s.outputs p).cmdReady = true ↔
      s.st = .idle ∧ s.fault = .none ∧ s.halt = false ∧ s.exitp = false ∧ p.exitReq = false ∧ p.rst = false)

/-- R34: RDATA holds r in bits 159:128, g in 127:96, b in 95:64 and br in 63:0. -/
def Obligations.ReadDataLayout : Prop :=
  ∀ p : Pixel, p.bits.extractLsb' 128 32 = p.r ∧ p.bits.extractLsb' 96 32 = p.g ∧ p.bits.extractLsb' 64 32 = p.b ∧
    p.bits.extractLsb' 0 64 = p.br

/-! ## The encoder (41_encode.md) -/

/-- R120: the colour byte is the low 8 bits of the register, which are its signed value modulo 256 (floor modulus). -/
def Obligations.ColourByteIsTheValueModulo256 : Prop :=
  ∀ c : Colour, colByte c = c.extractLsb' 0 8 ∧ ((colByte c).toNat : Int) = c.toInt % 256

/-- R121: where the product truncates to an integer `t`, its magnitude is below 2^31 and the brightness byte is the low 8
bits of 224 OR-ed with `t`, held in two's complement in any width of 32 bits or more. -/
def Obligations.BrightnessByteIsTheOrForm : Prop :=
  ∀ (draw : BrCode) (br : Brightness) (t : Int) (width : Nat), brTrunc br = some t → 32 ≤ width →
    -(2 ^ 31) < t ∧ t < 2 ^ 31 ∧
    brByte draw br = (BitVec.ofNat width 224 ||| BitVec.ofInt width t).setWidth 8

/-- R126 (a) and R124: the top three bits of the brightness byte are 1 for every brightness and every draw, so the byte is
in 224..255, and in the undefined range the low five bits are the draw. -/
def Obligations.BrightnessByteTopBits : Prop :=
  ∀ (draw : BrCode) (br : Brightness),
    (brByte draw br).extractLsb' 5 3 = 0b111#3 ∧ 224 ≤ (brByte draw br).toNat ∧
    (undefinedBr br = true → (brByte draw br).extractLsb' 0 5 = draw)

/-- R125: the float-free characterisation and the binary64 product of R121 and R122 give the same integer, or are both in
the undefined range, for all 2^64 patterns. -/
def Obligations.FloatFreeTruncationAgrees : Prop := ∀ br : Brightness, brTrunc br = brTruncInt br

/-- R123: for 0.0 <= br <= 1.0 (the patterns from +0.0 up to 1.0, and -0.0) the product is in 0..31 and the brightness
code is its integer part. -/
def Obligations.NominalBrightnessCode : Prop :=
  ∀ (draw : BrCode) (br : Brightness), br.toNat ≤ 0x3FF0000000000000 ∨ br = 0x8000000000000000#64 →
    ∃ t : Int, brTrunc br = some t ∧ 0 ≤ t ∧ t ≤ 31 ∧ ((brCode draw br).toNat : Int) = t

/-- R127: WriteByte sends, for each bit from bit 7 down to bit 0, the DATA operation of the bit, CH and CL. -/
def Obligations.WriteByteSendsMsbFirst : Prop :=
  ∀ v : WireByte, writeByte v =
    ([7, 6, 5, 4, 3, 2, 1, 0] : List Nat).flatMap fun k => [if v.getLsbD k then .d1 else .d0, .ch, .cl]

/-- R130, R154: a commit is 906 line operations, of which 324 are CH, 324 CL and 258 on DATA, whatever the buffer and the
draws. -/
def Obligations.FrameCounts : Prop :=
  ∀ (draw : Nat → BrCode) (pb : Buffer),
    (frame draw pb).length = 906 ∧ (frame draw pb).count .ch = 324 ∧ (frame draw pb).count .cl = 324 ∧
    (frame draw pb).count .d0 + (frame draw pb).count .d1 = 258

/-- R131, the table: the operation at position `k` of Frame(PB). -/
def Obligations.PositionMapOfTheFrame : Prop :=
  ∀ (draw : Nat → BrCode) (pb : Buffer) (k : Nat), k < 906 →
    (frame draw pb)[k]? = some (positionMap draw pb k)

/-- R131, last sentence: the `m`-th CH of the frame is at the place given there. -/
def Obligations.ClockPulsePositions : Prop :=
  ∀ (draw : Nat → BrCode) (pb : Buffer) (m : Nat), m < 324 →
    (frame draw pb)[chPosition m]? = some .ch ∧ ((frame draw pb).take (chPosition m)).count .ch = m

/-- R130, R124: two draws change nothing but the DATA operations of the five code bits of a pixel whose brightness is in the
undefined range. -/
def Obligations.DrawsOnlyReachUndefinedCodes : Prop :=
  ∀ (draw draw' : Nat → BrCode) (pb : Buffer) (k : Nat), (frame draw pb)[k]? ≠ (frame draw' pb)[k]? →
    ∃ i : Fin 8, undefinedBr pb[i].br = true ∧
      (k = 65 + 96 * i.val + 9 ∨ k = 65 + 96 * i.val + 12 ∨ k = 65 + 96 * i.val + 15 ∨ k = 65 + 96 * i.val + 18 ∨
        k = 65 + 96 * i.val + 21)

/-- R227, R124: with a nominal buffer the frame does not depend on the draws. -/
def Obligations.NominalFrameHasNoDraw : Prop :=
  ∀ (draw draw' : Nat → BrCode) (pb : Buffer), nominalBrightness pb → frame draw pb = frame draw' pb

/-! ## The wire (42_commit_transmit.md) -/

/-- R149, R150, R155: starting from both lines low, every DATA operation of a frame finds CLOCK low and is followed by CH,
every CH finds CLOCK low, every CL finds it high, and both lines are low at the end. -/
def Obligations.FrameEdges : Prop :=
  ∀ (draw : Nat → BrCode) (pb : Buffer),
    (∀ (k : Nat) (op : LineOp), (frame draw pb)[k]? = some op →
      (op = .d0 ∨ op = .d1 →
        (Levels.after .low ((frame draw pb).take k)).clock = false ∧ (frame draw pb)[k + 1]? = some .ch) ∧
      (op = .ch → (Levels.after .low ((frame draw pb).take k)).clock = false) ∧
      (op = .cl → (Levels.after .low ((frame draw pb).take k)).clock = true)) ∧
    Levels.after .low (frame draw pb) = .low

/-- R148, R83: the bits sampled at the rising edges of a commit that starts with CLOCK low are the 324 wire bits: 32 zeros,
the pixel words of PB[0] to PB[7], most significant bit first, and 36 zeros. -/
def Obligations.SampledBitsOfACommit : Prop :=
  ∀ (draw : Nat → BrCode) (pb : Buffer) (d : Bool),
    sampledFrom ⟨d, false⟩ (frame draw pb) = wireBits draw pb ∧ (wireBits draw pb).length = 324

/-- R153: neither the sampled bits nor the level trace of a reset frame depends on whether DATA is driven low once or
before each pulse. -/
def Obligations.ResetFrameReadingIsInvisible : Prop :=
  ∀ (n : Nat) (d : Bool), 0 < n →
    sampledFrom ⟨d, false⟩ (resetFrame n) = sampledFrom ⟨d, false⟩ (resetFramePerPulse n) ∧
    (levelsFrom ⟨d, false⟩ (resetFrame n)).destutter (· ≠ ·) =
      (levelsFrom ⟨d, false⟩ (resetFramePerPulse n)).destutter (· ≠ ·)

/-! ## Whole commits and the exit (42_commit_transmit.md, 43_system.md) -/

/-- R142 to R145, R175: from any state that transmits, if no reset comes, the rest of the frame of the buffer as it stands is
performed, whatever words are presented and whenever an exit is requested; then the block is Idle, EXITP holds whether an
exit was or has been requested, and nothing but the lines, POS, ST, EXITP, TRACE and the count of commits has changed.
The number of cycles is that of line operations, one a cycle (log entry 6). -/
def Obligations.TransmissionRunsToItsEnd : Prop :=
  ∀ s : State, s.st = .transmitting → s.frozen = false → s.noResetFor (906 - s.pos.val) = true →
    ∃ t, runCycles (906 - s.pos.val) s = .next t ∧
      t.trace = s.trace ++ (frame s.draw s.pb).drop s.pos.val ∧
      Levels.after ⟨s.data, s.clock⟩ ((frame s.draw s.pb).drop s.pos.val) = ⟨t.data, t.clock⟩ ∧
      t.st = .idle ∧ t.pos = 0 ∧ t.commits = s.commits + 1 ∧
      t.exitp = (s.exitp || (s.inputs.take (906 - s.pos.val)).any fun p => p.exitReq) ∧
      t = { s with data := t.data, clock := t.clock, st := t.st, pos := t.pos, exitp := t.exitp, trace := t.trace,
                   commits := t.commits, inputs := s.inputs.drop (906 - s.pos.val) }

/-- R140: an accepted SHOW, if no reset comes, is followed by exactly the 906 operations of the frame of the buffer at its
acceptance and then by Idle with both lines low; nothing else changes but EXITP (and the free-value index). `t.draw` is
the draws of that commit (log entry 3); the 907 cycles are the accepting one and one for each line operation (log
entry 6). -/
def Obligations.ShowSendsTheFrame : Prop :=
  ∀ (s : State) (c : Bool) (w : CmdWord) (rest : List Pins), s.accepting = true →
    s.inputs = ⟨false, c, true, w, false⟩ :: rest → fieldOp w = 0x06#8 → s.noResetFor 907 = true →
    ∃ t, runCycles 907 s = .next t ∧ t.trace = s.trace ++ frame t.draw s.pb ∧
      t.data = false ∧ t.clock = false ∧ t.st = .idle ∧ t.pos = 0 ∧ t.commits = s.commits + 1 ∧
      t = { s with data := t.data, clock := t.clock, st := t.st, pos := t.pos, exitp := t.exitp, trace := t.trace,
                   commits := t.commits, freeIndex := t.freeIndex, inputs := s.inputs.drop 907 }

/-- R148 of the machine: over an accepted SHOW or CLEAR and its 906 steps from a state with CLOCK low as its trace left it,
the sampled bits of TRACE grow by the 324 wire bits of the buffer that stands at the end. `t.draw` is the draws of that
commit, free values (log entry 3); one line operation a cycle is log entry 6. -/
def Obligations.CommitAddsItsWireBits : Prop :=
  ∀ (s : State) (c : Bool) (w : CmdWord) (rest : List Pins), s.accepting = true → s.WireOk →
    s.inputs = ⟨false, c, true, w, false⟩ :: rest → fieldOp w = 0x06#8 ∨ fieldOp w = 0x07#8 →
    s.noResetFor 907 = true →
    ∃ t, runCycles 907 s = .next t ∧ t.st = .idle ∧
      sampledBits t.trace = sampledBits s.trace ++ wireBits t.draw t.pb

/-- R141: an accepted CLEAR, if no reset comes, sends the frame of the zero buffer (906 operations, the same for all
draws), whose 324 sampled bits are 32 zeros, 8 times 11100000 and 24 zeros, and 36 zeros, and leaves the buffer zero, both
lines low and the block Idle; nothing else changes but EXITP (and the model's bookkeeping, log entries 1, 3, 7). One line
operation a cycle is log entry 6. -/
def Obligations.ClearSendsTheZeroFrame : Prop :=
  ∀ (s : State) (c : Bool) (w : CmdWord) (rest : List Pins), s.accepting = true →
    s.inputs = ⟨false, c, true, w, false⟩ :: rest → fieldOp w = 0x07#8 → s.noResetFor 907 = true →
    ∃ t f, runCycles 907 s = .next t ∧ t.trace = s.trace ++ f ∧ f.length = 906 ∧
      (∀ draw : Nat → BrCode, f = frame draw Buffer.zero) ∧
      sampledBits f = List.replicate 32 false ++
        (List.replicate 8 ([true, true, true] ++ List.replicate 29 false)).flatten ++ List.replicate 36 false ∧
      (∀ i : Fin 8, t.pb[i] = ⟨0#32, 0#32, 0#32, 0#64⟩) ∧ t.data = false ∧ t.clock = false ∧ t.st = .idle ∧
      t.pos = 0 ∧ t.commits = s.commits + 1 ∧
      t = { s with pb := t.pb, data := t.data, clock := t.clock, st := t.st, pos := t.pos, exitp := t.exitp,
                   trace := t.trace, commits := t.commits, freeIndex := t.freeIndex, inputs := s.inputs.drop 907 }

/-- R151: two SHOW commands one after the other, with a nominal buffer and no reset or exit request, append the same 906
operations twice. The 1814 cycles are two accepting ones and one for each line operation (log entry 6). -/
def Obligations.RepeatedShowSendsTheSameFrame : Prop :=
  ∀ (s : State) (w w' : CmdWord) (c c' : Bool) (rest rest' : List Pins), s.accepting = true →
    nominalBrightness s.pb → fieldOp w = 0x06#8 → fieldOp w' = 0x06#8 →
    s.inputs = ⟨false, c, true, w, false⟩ :: (rest ++ ⟨false, c', true, w', false⟩ :: rest') → rest.length = 906 →
    s.noResetFor 1814 = true → (rest.all fun p => !p.exitReq) = true →
    ∃ t f, runCycles 1814 s = .next t ∧ f.length = 906 ∧ t.trace = s.trace ++ f ++ f ∧
      t.pb = s.pb ∧ t.st = .idle

/-- R172 to R174, R224: with the registration enabled, a pending exit request in Idle leads in 908 cycles without reset to the
halt, the buffer zero and exactly one all-zero frame sent, whatever the host presents. The count of 908 cycles rests on the
model's choices: a pending request is served in the very Idle cycle that begins with it (log entry 4), and one line
operation is one cycle (log entry 6). -/
def Obligations.ExitWithRegistrationClearsAndHalts : Prop :=
  ∀ s : State, s.st = .idle → s.exitp = true → s.frozen = false → s.coe = true → s.finalSent = false →
    s.noResetFor 908 = true →
    ∃ t, runCycles 908 s = .next t ∧ t.halt = true ∧ t.fault = .none ∧ t.finalSent = true ∧
      t.st = .idle ∧ t.data = false ∧ t.clock = false ∧ (∀ i : Fin 8, t.pb[i] = ⟨0#32, 0#32, 0#32, 0#64⟩) ∧
      t.trace = s.trace ++ frame t.draw t.pb

/-- R225: a good end stays one: with no more commands, resets or exit requests, no step changes anything. That such a
cycle, of a halted block too, is a next state with the sample of the pins taken is the model's form (log entries 1 and
10). -/
def Obligations.GoodEndIsQuiescent : Prop :=
  ∀ s : State, s.goodEnd = true → s.envQuiet = true →
    step s = .next { s with inputs := s.inputs.tail } ∧ ({ s with inputs := s.inputs.tail } : State).goodEnd = true

/-! ## Invariants (10_state.md R41 and the rules it follows from) -/

/-- The three families of invariants hold right after reset, with `cfg_ok` = 1 and with `cfg_ok` = 0. -/
def Obligations.ResetMeetsTheInvariants : Prop :=
  ∀ (s : State) (c : Bool), (State.reset.RegistersOk ∧ State.reset.ExitOk ∧ State.reset.WireOk) ∧
    ((s.resetTo c).RegistersOk ∧ (s.resetTo c).ExitOk ∧ (s.resetTo c).WireOk)

/-- R24, R36, R41 (a) and (f), R145, R155: every step keeps the lines as the trace left them, and the trace a whole number of
commits followed by the part of the present frame that has been sent. -/
def Obligations.WireInvariantKept : Prop :=
  ∀ s t : State, s.WireOk → step s = .next t → t.WireOk

/-- R41: every step keeps (a), (b), (d), (e), (f), what a state shows of (c), and FINFO in step with FAULT, in every state
whose lines stand as its trace left them. -/
def Obligations.RegistersInvariantKept : Prop :=
  ∀ s t : State, s.RegistersOk → s.WireOk → step s = .next t → t.RegistersOk

/-- R172, R173, R191: every step keeps the invariants of the exit hook: the block halts with COE = 1 only after the final
clear, and the buffer stays zero from the final clear on. -/
def Obligations.ExitInvariantKept : Prop :=
  ∀ s t : State, s.ExitOk → step s = .next t → t.ExitOk

/-! ## The assembler (30_encoding.md R85) -/

/-- R85: one line of each command assembles to the word printed beside it in 95_test_vectors.md section 3. -/
def Obligations.ProgramLinesAssemble : Prop :=
  assembleText "SETPIXEL 0, 255, 0, 0, 0.5".toList
      = some 0x01_00000000_000000FF_00000000_00000000_3FE0000000000000#200 ∧
    assembleText "SETCOLOR 3, 300, -1, 256".toList
      = some 0x02_00000003_0000012C_FFFFFFFF_00000100_0000000000000000#200 ∧
    assembleText "SETBRIGHT 3, 1.5".toList
      = some 0x03_00000003_00000000_00000000_00000000_3FF8000000000000#200 ∧
    assembleText "SETALL 1, 2, 3, 0.25".toList
      = some 0x04_00000000_00000001_00000002_00000003_3FD0000000000000#200 ∧
    assembleText "READ 2".toList = some 0x05_00000002_00000000_00000000_00000000_0000000000000000#200 ∧
    assembleText "SHOW".toList = some 0x06_00000000_00000000_00000000_00000000_0000000000000000#200 ∧
    assembleText "CLEAR".toList = some 0x07_00000000_00000000_00000000_00000000_0000000000000000#200 ∧
    assembleText "SETCOE 1".toList = some 0x08_00000001_00000000_00000000_00000000_0000000000000000#200
end

