-- ==== Sys2Proof/Laws/State.lean ====
section
/-! SUPPORT. One lemma per field per update of the state, so that no proof unfolds a record update. -/

namespace Sys2Proof.Machine

/-! ## raise -/

@[simp] theorem State.raise_pb (c : FaultCode) (i : BitVec 32) (s : State) : (s.raise c i).pb = s.pb := rfl
@[simp] theorem State.raise_data (c : FaultCode) (i : BitVec 32) (s : State) : (s.raise c i).data = s.data := rfl
@[simp] theorem State.raise_clock (c : FaultCode) (i : BitVec 32) (s : State) : (s.raise c i).clock = s.clock := rfl
@[simp] theorem State.raise_st (c : FaultCode) (i : BitVec 32) (s : State) : (s.raise c i).st = s.st := rfl
@[simp] theorem State.raise_pos (c : FaultCode) (i : BitVec 32) (s : State) : (s.raise c i).pos = s.pos := rfl
@[simp] theorem State.raise_fault (c : FaultCode) (i : BitVec 32) (s : State) : (s.raise c i).fault = c := rfl
@[simp] theorem State.raise_finfo (c : FaultCode) (i : BitVec 32) (s : State) : (s.raise c i).finfo = i := rfl
@[simp] theorem State.raise_halt (c : FaultCode) (i : BitVec 32) (s : State) : (s.raise c i).halt = s.halt := rfl
@[simp] theorem State.raise_coe (c : FaultCode) (i : BitVec 32) (s : State) : (s.raise c i).coe = s.coe := rfl
@[simp] theorem State.raise_exitp (c : FaultCode) (i : BitVec 32) (s : State) : (s.raise c i).exitp = s.exitp := rfl
@[simp] theorem State.raise_finalSent (c : FaultCode) (i : BitVec 32) (s : State) : (s.raise c i).finalSent = s.finalSent := rfl
@[simp] theorem State.raise_rdata (c : FaultCode) (i : BitVec 32) (s : State) : (s.raise c i).rdata = s.rdata := rfl
@[simp] theorem State.raise_trace (c : FaultCode) (i : BitVec 32) (s : State) : (s.raise c i).trace = s.trace := rfl
@[simp] theorem State.raise_commits (c : FaultCode) (i : BitVec 32) (s : State) : (s.raise c i).commits = s.commits := rfl
@[simp] theorem State.raise_freeIndex (c : FaultCode) (i : BitVec 32) (s : State) : (s.raise c i).freeIndex = s.freeIndex := rfl
@[simp] theorem State.raise_inputs (c : FaultCode) (i : BitVec 32) (s : State) : (s.raise c i).inputs = s.inputs := rfl

/-! ## resetTo -/

@[simp] theorem State.resetTo_pb (c : Bool) (s : State) : (s.resetTo c).pb = Buffer.zero := rfl
@[simp] theorem State.resetTo_data (c : Bool) (s : State) : (s.resetTo c).data = false := rfl
@[simp] theorem State.resetTo_clock (c : Bool) (s : State) : (s.resetTo c).clock = false := rfl
@[simp] theorem State.resetTo_st (c : Bool) (s : State) : (s.resetTo c).st = .idle := rfl
@[simp] theorem State.resetTo_pos (c : Bool) (s : State) : (s.resetTo c).pos = 0 := rfl
@[simp] theorem State.resetTo_fault (c : Bool) (s : State) : (s.resetTo c).fault = if c then .none else .configurationError := rfl
@[simp] theorem State.resetTo_finfo (c : Bool) (s : State) : (s.resetTo c).finfo = 0#32 := rfl
@[simp] theorem State.resetTo_halt (c : Bool) (s : State) : (s.resetTo c).halt = false := rfl
@[simp] theorem State.resetTo_coe (c : Bool) (s : State) : (s.resetTo c).coe = false := rfl
@[simp] theorem State.resetTo_exitp (c : Bool) (s : State) : (s.resetTo c).exitp = false := rfl
@[simp] theorem State.resetTo_finalSent (c : Bool) (s : State) : (s.resetTo c).finalSent = false := rfl
@[simp] theorem State.resetTo_rdata (c : Bool) (s : State) : (s.resetTo c).rdata = .invalid := rfl
@[simp] theorem State.resetTo_trace (c : Bool) (s : State) : (s.resetTo c).trace = [] := rfl
@[simp] theorem State.resetTo_commits (c : Bool) (s : State) : (s.resetTo c).commits = 0 := rfl
@[simp] theorem State.resetTo_freeIndex (c : Bool) (s : State) : (s.resetTo c).freeIndex = s.freeIndex := rfl
@[simp] theorem State.resetTo_inputs (c : Bool) (s : State) : (s.resetTo c).inputs = s.inputs := rfl

/-! ## writePixel -/

@[simp] theorem State.writePixel_pb (i : Fin Config.nPix) (f : FieldSet) (v : Pixel) (s : State) : (s.writePixel i f v).pb = s.pb.set i (f.write v s.pb[i]) := rfl
@[simp] theorem State.writePixel_data (i : Fin Config.nPix) (f : FieldSet) (v : Pixel) (s : State) : (s.writePixel i f v).data = s.data := rfl
@[simp] theorem State.writePixel_clock (i : Fin Config.nPix) (f : FieldSet) (v : Pixel) (s : State) : (s.writePixel i f v).clock = s.clock := rfl
@[simp] theorem State.writePixel_st (i : Fin Config.nPix) (f : FieldSet) (v : Pixel) (s : State) : (s.writePixel i f v).st = s.st := rfl
@[simp] theorem State.writePixel_pos (i : Fin Config.nPix) (f : FieldSet) (v : Pixel) (s : State) : (s.writePixel i f v).pos = s.pos := rfl
@[simp] theorem State.writePixel_fault (i : Fin Config.nPix) (f : FieldSet) (v : Pixel) (s : State) : (s.writePixel i f v).fault = s.fault := rfl
@[simp] theorem State.writePixel_finfo (i : Fin Config.nPix) (f : FieldSet) (v : Pixel) (s : State) : (s.writePixel i f v).finfo = s.finfo := rfl
@[simp] theorem State.writePixel_halt (i : Fin Config.nPix) (f : FieldSet) (v : Pixel) (s : State) : (s.writePixel i f v).halt = s.halt := rfl
@[simp] theorem State.writePixel_coe (i : Fin Config.nPix) (f : FieldSet) (v : Pixel) (s : State) : (s.writePixel i f v).coe = s.coe := rfl
@[simp] theorem State.writePixel_exitp (i : Fin Config.nPix) (f : FieldSet) (v : Pixel) (s : State) : (s.writePixel i f v).exitp = s.exitp := rfl
@[simp] theorem State.writePixel_finalSent (i : Fin Config.nPix) (f : FieldSet) (v : Pixel) (s : State) : (s.writePixel i f v).finalSent = s.finalSent := rfl
@[simp] theorem State.writePixel_rdata (i : Fin Config.nPix) (f : FieldSet) (v : Pixel) (s : State) : (s.writePixel i f v).rdata = s.rdata := rfl
@[simp] theorem State.writePixel_trace (i : Fin Config.nPix) (f : FieldSet) (v : Pixel) (s : State) : (s.writePixel i f v).trace = s.trace := rfl
@[simp] theorem State.writePixel_commits (i : Fin Config.nPix) (f : FieldSet) (v : Pixel) (s : State) : (s.writePixel i f v).commits = s.commits := rfl
@[simp] theorem State.writePixel_freeIndex (i : Fin Config.nPix) (f : FieldSet) (v : Pixel) (s : State) : (s.writePixel i f v).freeIndex = s.freeIndex := rfl
@[simp] theorem State.writePixel_inputs (i : Fin Config.nPix) (f : FieldSet) (v : Pixel) (s : State) : (s.writePixel i f v).inputs = s.inputs := rfl

/-! ## fillPixels -/

@[simp] theorem State.fillPixels_pb (v : Pixel) (s : State) : (s.fillPixels v).pb = Vector.replicate Config.nPix v := rfl
@[simp] theorem State.fillPixels_data (v : Pixel) (s : State) : (s.fillPixels v).data = s.data := rfl
@[simp] theorem State.fillPixels_clock (v : Pixel) (s : State) : (s.fillPixels v).clock = s.clock := rfl
@[simp] theorem State.fillPixels_st (v : Pixel) (s : State) : (s.fillPixels v).st = s.st := rfl
@[simp] theorem State.fillPixels_pos (v : Pixel) (s : State) : (s.fillPixels v).pos = s.pos := rfl
@[simp] theorem State.fillPixels_fault (v : Pixel) (s : State) : (s.fillPixels v).fault = s.fault := rfl
@[simp] theorem State.fillPixels_finfo (v : Pixel) (s : State) : (s.fillPixels v).finfo = s.finfo := rfl
@[simp] theorem State.fillPixels_halt (v : Pixel) (s : State) : (s.fillPixels v).halt = s.halt := rfl
@[simp] theorem State.fillPixels_coe (v : Pixel) (s : State) : (s.fillPixels v).coe = s.coe := rfl
@[simp] theorem State.fillPixels_exitp (v : Pixel) (s : State) : (s.fillPixels v).exitp = s.exitp := rfl
@[simp] theorem State.fillPixels_finalSent (v : Pixel) (s : State) : (s.fillPixels v).finalSent = s.finalSent := rfl
@[simp] theorem State.fillPixels_rdata (v : Pixel) (s : State) : (s.fillPixels v).rdata = s.rdata := rfl
@[simp] theorem State.fillPixels_trace (v : Pixel) (s : State) : (s.fillPixels v).trace = s.trace := rfl
@[simp] theorem State.fillPixels_commits (v : Pixel) (s : State) : (s.fillPixels v).commits = s.commits := rfl
@[simp] theorem State.fillPixels_freeIndex (v : Pixel) (s : State) : (s.fillPixels v).freeIndex = s.freeIndex := rfl
@[simp] theorem State.fillPixels_inputs (v : Pixel) (s : State) : (s.fillPixels v).inputs = s.inputs := rfl

/-! ## startCommit -/

@[simp] theorem State.startCommit_pb (s : State) : (s.startCommit).pb = s.pb := rfl
@[simp] theorem State.startCommit_data (s : State) : (s.startCommit).data = s.data := rfl
@[simp] theorem State.startCommit_clock (s : State) : (s.startCommit).clock = s.clock := rfl
@[simp] theorem State.startCommit_st (s : State) : (s.startCommit).st = .transmitting := rfl
@[simp] theorem State.startCommit_pos (s : State) : (s.startCommit).pos = 0 := rfl
@[simp] theorem State.startCommit_fault (s : State) : (s.startCommit).fault = s.fault := rfl
@[simp] theorem State.startCommit_finfo (s : State) : (s.startCommit).finfo = s.finfo := rfl
@[simp] theorem State.startCommit_halt (s : State) : (s.startCommit).halt = s.halt := rfl
@[simp] theorem State.startCommit_coe (s : State) : (s.startCommit).coe = s.coe := rfl
@[simp] theorem State.startCommit_exitp (s : State) : (s.startCommit).exitp = s.exitp := rfl
@[simp] theorem State.startCommit_finalSent (s : State) : (s.startCommit).finalSent = s.finalSent := rfl
@[simp] theorem State.startCommit_rdata (s : State) : (s.startCommit).rdata = s.rdata := rfl
@[simp] theorem State.startCommit_trace (s : State) : (s.startCommit).trace = s.trace := rfl
@[simp] theorem State.startCommit_commits (s : State) : (s.startCommit).commits = s.commits := rfl
@[simp] theorem State.startCommit_freeIndex (s : State) : (s.startCommit).freeIndex = s.freeIndex + 1 := rfl
@[simp] theorem State.startCommit_inputs (s : State) : (s.startCommit).inputs = s.inputs := rfl

/-! ## latchExit -/

@[simp] theorem State.latchExit_pb (e : Bool) (s : State) : (s.latchExit e).pb = s.pb := rfl
@[simp] theorem State.latchExit_data (e : Bool) (s : State) : (s.latchExit e).data = s.data := rfl
@[simp] theorem State.latchExit_clock (e : Bool) (s : State) : (s.latchExit e).clock = s.clock := rfl
@[simp] theorem State.latchExit_st (e : Bool) (s : State) : (s.latchExit e).st = s.st := rfl
@[simp] theorem State.latchExit_pos (e : Bool) (s : State) : (s.latchExit e).pos = s.pos := rfl
@[simp] theorem State.latchExit_fault (e : Bool) (s : State) : (s.latchExit e).fault = s.fault := rfl
@[simp] theorem State.latchExit_finfo (e : Bool) (s : State) : (s.latchExit e).finfo = s.finfo := rfl
@[simp] theorem State.latchExit_halt (e : Bool) (s : State) : (s.latchExit e).halt = s.halt := rfl
@[simp] theorem State.latchExit_coe (e : Bool) (s : State) : (s.latchExit e).coe = s.coe := rfl
@[simp] theorem State.latchExit_exitp (e : Bool) (s : State) : (s.latchExit e).exitp = (s.exitp || e) := rfl
@[simp] theorem State.latchExit_finalSent (e : Bool) (s : State) : (s.latchExit e).finalSent = s.finalSent := rfl
@[simp] theorem State.latchExit_rdata (e : Bool) (s : State) : (s.latchExit e).rdata = s.rdata := rfl
@[simp] theorem State.latchExit_trace (e : Bool) (s : State) : (s.latchExit e).trace = s.trace := rfl
@[simp] theorem State.latchExit_commits (e : Bool) (s : State) : (s.latchExit e).commits = s.commits := rfl
@[simp] theorem State.latchExit_freeIndex (e : Bool) (s : State) : (s.latchExit e).freeIndex = s.freeIndex := rfl
@[simp] theorem State.latchExit_inputs (e : Bool) (s : State) : (s.latchExit e).inputs = s.inputs := rfl

/-! ## sampled -/

@[simp] theorem State.sampled_pb (s : State) : (s.sampled).pb = s.pb := rfl
@[simp] theorem State.sampled_data (s : State) : (s.sampled).data = s.data := rfl
@[simp] theorem State.sampled_clock (s : State) : (s.sampled).clock = s.clock := rfl
@[simp] theorem State.sampled_st (s : State) : (s.sampled).st = s.st := rfl
@[simp] theorem State.sampled_pos (s : State) : (s.sampled).pos = s.pos := rfl
@[simp] theorem State.sampled_fault (s : State) : (s.sampled).fault = s.fault := rfl
@[simp] theorem State.sampled_finfo (s : State) : (s.sampled).finfo = s.finfo := rfl
@[simp] theorem State.sampled_halt (s : State) : (s.sampled).halt = s.halt := rfl
@[simp] theorem State.sampled_coe (s : State) : (s.sampled).coe = s.coe := rfl
@[simp] theorem State.sampled_exitp (s : State) : (s.sampled).exitp = s.exitp := rfl
@[simp] theorem State.sampled_finalSent (s : State) : (s.sampled).finalSent = s.finalSent := rfl
@[simp] theorem State.sampled_rdata (s : State) : (s.sampled).rdata = s.rdata := rfl
@[simp] theorem State.sampled_trace (s : State) : (s.sampled).trace = s.trace := rfl
@[simp] theorem State.sampled_commits (s : State) : (s.sampled).commits = s.commits := rfl
@[simp] theorem State.sampled_freeIndex (s : State) : (s.sampled).freeIndex = s.freeIndex := rfl
@[simp] theorem State.sampled_inputs (s : State) : (s.sampled).inputs = s.inputs.tail := rfl

/-! ## applyOp: a line and TRACE (R146) -/

@[simp] theorem State.applyOp_pb (op : LineOp) (s : State) : (s.applyOp op).pb = s.pb := by cases op <;> rfl
@[simp] theorem State.applyOp_st (op : LineOp) (s : State) : (s.applyOp op).st = s.st := by cases op <;> rfl
@[simp] theorem State.applyOp_pos (op : LineOp) (s : State) : (s.applyOp op).pos = s.pos := by cases op <;> rfl
@[simp] theorem State.applyOp_fault (op : LineOp) (s : State) : (s.applyOp op).fault = s.fault := by cases op <;> rfl
@[simp] theorem State.applyOp_finfo (op : LineOp) (s : State) : (s.applyOp op).finfo = s.finfo := by cases op <;> rfl
@[simp] theorem State.applyOp_halt (op : LineOp) (s : State) : (s.applyOp op).halt = s.halt := by cases op <;> rfl
@[simp] theorem State.applyOp_coe (op : LineOp) (s : State) : (s.applyOp op).coe = s.coe := by cases op <;> rfl
@[simp] theorem State.applyOp_exitp (op : LineOp) (s : State) : (s.applyOp op).exitp = s.exitp := by cases op <;> rfl
@[simp] theorem State.applyOp_finalSent (op : LineOp) (s : State) : (s.applyOp op).finalSent = s.finalSent := by cases op <;> rfl
@[simp] theorem State.applyOp_rdata (op : LineOp) (s : State) : (s.applyOp op).rdata = s.rdata := by cases op <;> rfl
@[simp] theorem State.applyOp_trace (op : LineOp) (s : State) : (s.applyOp op).trace = s.trace ++ [op] := by cases op <;> rfl
@[simp] theorem State.applyOp_commits (op : LineOp) (s : State) : (s.applyOp op).commits = s.commits := by cases op <;> rfl
@[simp] theorem State.applyOp_freeIndex (op : LineOp) (s : State) : (s.applyOp op).freeIndex = s.freeIndex := by cases op <;> rfl
@[simp] theorem State.applyOp_inputs (op : LineOp) (s : State) : (s.applyOp op).inputs = s.inputs := by cases op <;> rfl
@[simp] theorem State.applyOp_data (op : LineOp) (s : State) :
    (s.applyOp op).data = (Levels.apply ⟨s.data, s.clock⟩ op).data := by cases op <;> rfl
@[simp] theorem State.applyOp_clock (op : LineOp) (s : State) :
    (s.applyOp op).clock = (Levels.apply ⟨s.data, s.clock⟩ op).clock := by cases op <;> rfl

/-! ## advance: POS, ST and the count of commits (R27) -/

@[simp] theorem State.advance_pb (s : State) : s.advance.pb = s.pb := by unfold State.advance; split <;> rfl
@[simp] theorem State.advance_data (s : State) : s.advance.data = s.data := by unfold State.advance; split <;> rfl
@[simp] theorem State.advance_clock (s : State) : s.advance.clock = s.clock := by unfold State.advance; split <;> rfl
@[simp] theorem State.advance_fault (s : State) : s.advance.fault = s.fault := by unfold State.advance; split <;> rfl
@[simp] theorem State.advance_finfo (s : State) : s.advance.finfo = s.finfo := by unfold State.advance; split <;> rfl
@[simp] theorem State.advance_halt (s : State) : s.advance.halt = s.halt := by unfold State.advance; split <;> rfl
@[simp] theorem State.advance_coe (s : State) : s.advance.coe = s.coe := by unfold State.advance; split <;> rfl
@[simp] theorem State.advance_exitp (s : State) : s.advance.exitp = s.exitp := by unfold State.advance; split <;> rfl
@[simp] theorem State.advance_finalSent (s : State) : s.advance.finalSent = s.finalSent := by unfold State.advance; split <;> rfl
@[simp] theorem State.advance_rdata (s : State) : s.advance.rdata = s.rdata := by unfold State.advance; split <;> rfl
@[simp] theorem State.advance_trace (s : State) : s.advance.trace = s.trace := by unfold State.advance; split <;> rfl
@[simp] theorem State.advance_freeIndex (s : State) : s.advance.freeIndex = s.freeIndex := by unfold State.advance; split <;> rfl
@[simp] theorem State.advance_inputs (s : State) : s.advance.inputs = s.inputs := by unfold State.advance; split <;> rfl

/-- Before the last position the sequencer moves to the next one (R27). -/
theorem State.advance_of_lt (s : State) (h : s.pos.val < 905) :
    s.advance.pos.val = s.pos.val + 1 ∧ s.advance.st = s.st ∧ s.advance.commits = s.commits := by
  unfold State.advance
  rw [dif_neg (by omega)]
  exact ⟨rfl, rfl, rfl⟩

/-- After the last position the block is Idle again and one more commit is complete (R143). -/
theorem State.advance_of_last (s : State) (h : s.pos.val = 905) :
    s.advance.pos = 0 ∧ s.advance.st = .idle ∧ s.advance.commits = s.commits + 1 := by
  unfold State.advance
  rw [dif_pos h]
  exact ⟨rfl, rfl, rfl⟩

end Sys2Proof.Machine
end

