-- ==== Sys2Proof/Laws/Ops.lean ====
section
/-! SUPPORT. What each shared operation can do, said once: the index test, the buffer access, decoding, and the encoder's
small facts. -/

namespace Sys2Proof.Machine

/-! ## The index test (R51) -/

theorem pixelIndex_eq_some {idx : Index} {i : Fin Config.nPix} (h : idx.toInt = i.val) :
    pixelIndex idx = some i := by
  have hi := i.isLt
  unfold Config.nPix at hi
  unfold pixelIndex
  rw [dif_pos (by omega)]
  exact congrArg some (Fin.ext (by simp only [h]; omega))

theorem toInt_of_pixelIndex {idx : Index} {i : Fin Config.nPix} (h : pixelIndex idx = some i) :
    idx.toInt = i.val := by
  unfold pixelIndex at h
  split at h
  · simp only [Option.some.injEq] at h; subst h; dsimp only; omega
  · exact absurd h (by simp)

theorem pixelIndex_eq_none_iff {idx : Index} : pixelIndex idx = none ↔ idx.toInt < 0 ∨ 7 < idx.toInt := by
  unfold pixelIndex
  split <;> simp only [reduceCtorEq, false_iff, true_iff] <;> omega

theorem State.frozen_eq_false (s : State) : s.frozen = false ↔ s.fault = .none ∧ s.halt = false := by
  simp [State.frozen]

/-! ## Buffer access (R52, R53) -/

/-- An indexed access either runs on the pixel its operand names or raises IndexOutOfRange (R51, R183). -/
theorem withPixel_cases (idx : Index) (s : State) (access : Fin Config.nPix → State) :
    (∃ i, pixelIndex idx = some i ∧ withPixel idx s access = .next (access i)) ∨
      (pixelIndex idx = none ∧ withPixel idx s access = .next (s.raise .indexOutOfRange idx)) := by
  unfold withPixel
  cases h : pixelIndex idx with
  | some i => exact .inl ⟨i, rfl, rfl⟩
  | none => exact .inr ⟨rfl, rfl⟩

theorem withPixel_of_toInt {idx : Index} {i : Fin Config.nPix} (h : idx.toInt = i.val) (s : State)
    (access : Fin Config.nPix → State) : withPixel idx s access = .next (access i) := by
  unfold withPixel; rw [pixelIndex_eq_some h]

theorem withPixel_of_outside {idx : Index} (h : idx.toInt < 0 ∨ 7 < idx.toInt) (s : State)
    (access : Fin Config.nPix → State) : withPixel idx s access = .next (s.raise .indexOutOfRange idx) := by
  unfold withPixel; rw [pixelIndex_eq_none_iff.mpr h]

/-- Reading after the write of one entry (R52, R53). -/
theorem State.writePixel_read (i j : Fin Config.nPix) (f : FieldSet) (v : Pixel) (s : State) :
    (s.writePixel i f v).pb[j] = if j = i then f.write v s.pb[i] else s.pb[j] := by
  simp only [State.writePixel_pb, Fin.getElem_fin, Vector.getElem_set, Fin.ext_iff, eq_comm]

@[simp] theorem State.fillPixels_read (j : Fin Config.nPix) (v : Pixel) (s : State) :
    (s.fillPixels v).pb[j] = v := by
  simp [State.fillPixels]

/-! ## Decoding (R72, R78) -/

/-- A word decodes to a command whose op byte is the word's, or is rejected with the word's reserved op byte. -/
theorem decode_cases (w : CmdWord) :
    (∃ i, decode w = .ok i ∧ i.op = fieldOp w ∧ formatOfOp (fieldOp w) = some i.format) ∨
      (decode w = .error (.reservedOp (fieldOp w)) ∧ formatOfOp (fieldOp w) = none) := by
  have op_eq : ∀ n : Nat, n < 256 → (fieldOp w).toNat = n → BitVec.ofNat 8 n = fieldOp w := by
    intro n hn h; apply BitVec.eq_of_toNat_eq; simp [h]; omega
  unfold decode formatOfOp
  split <;> rename_i h
  · exact .inl ⟨_, rfl, op_eq _ (by decide) h, rfl⟩
  · exact .inl ⟨_, rfl, op_eq _ (by decide) h, rfl⟩
  · exact .inl ⟨_, rfl, op_eq _ (by decide) h, rfl⟩
  · exact .inl ⟨_, rfl, op_eq _ (by decide) h, rfl⟩
  · exact .inl ⟨_, rfl, op_eq _ (by decide) h, rfl⟩
  · exact .inl ⟨_, rfl, op_eq _ (by decide) h, rfl⟩
  · exact .inl ⟨_, rfl, op_eq _ (by decide) h, rfl⟩
  · exact .inl ⟨_, rfl, op_eq _ (by decide) h, rfl⟩
  · exact .inr ⟨rfl, rfl⟩

/-- A word is made of its six fields (R71). -/
theorem wordOf_fields (w : CmdWord) :
    wordOf (fieldOp w) (fieldIdx w) (fieldR w) (fieldG w) (fieldB w) (fieldBr w) = w := by
  unfold wordOf fieldOp fieldIdx fieldR fieldG fieldB fieldBr
  apply BitVec.eq_of_getLsbD_eq
  intro k hk
  simp only [BitVec.getLsbD_append, BitVec.getLsbD_extractLsb']
  grind

/-- The fields of a word put together from fields (R71). -/
theorem fields_wordOf (op : OpByte) (idx : Index) (r g b : Colour) (br : Brightness) :
    fieldOp (wordOf op idx r g b br) = op ∧ fieldIdx (wordOf op idx r g b br) = idx ∧
      fieldR (wordOf op idx r g b br) = r ∧ fieldG (wordOf op idx r g b br) = g ∧
      fieldB (wordOf op idx r g b br) = b ∧ fieldBr (wordOf op idx r g b br) = br := by
  unfold fieldOp fieldIdx fieldR fieldG fieldB fieldBr wordOf
  refine ⟨?_, ?_, ?_, ?_, ?_, ?_⟩ <;>
  · ext k hk
    simp only [BitVec.getElem_extractLsb', BitVec.getLsbD_append]
    grind

/-! ## The encoder -/

theorem Levels.after_append (l : Levels) (xs ys : List LineOp) :
    l.after (xs ++ ys) = (l.after xs).after ys := by
  simp [Levels.after, List.foldl_append]

theorem Levels.after_pulses (n : Nat) (l : Levels) (h : l.clock = false) : l.after (pulses n) = l := by
  induction n with
  | zero => rfl
  | succ n ih =>
    obtain ⟨d, c⟩ := l
    subst h
    exact ih

/-- A reset frame leaves both lines low, whatever DATA was before it (R128, R155). -/
theorem Levels.after_resetFrame (n : Nat) (l : Levels) (h : l.clock = false) :
    l.after (resetFrame n) = .low := by
  obtain ⟨d, c⟩ := l
  subst h
  exact Levels.after_pulses n .low rfl

/-- Bit cells leave CLOCK low (R79). -/
theorem Levels.after_writeBits_clock (n : Nat) (w : WireByte) (l : Levels) (h : l.clock = false) :
    (l.after (writeBits n w)).clock = false := by
  induction n generalizing w l with
  | zero => exact h
  | succ n ih => exact ih _ _ rfl

end Sys2Proof.Machine
end

