-- ==== Sys2Proof/Laws/Encoder.lean ====
section
/-! SUPPORT. The encoder's and the wire's small lemmas: what stands at a place of each list the encoder builds, how often
each operation occurs, and what a receiver samples of it. -/

namespace Sys2Proof.Machine

/-! ## Counts -/

theorem count_pulses (n : Nat) :
    (pulses n).count .ch = n ∧ (pulses n).count .cl = n ∧ (pulses n).count .d0 = 0 ∧ (pulses n).count .d1 = 0 := by
  induction n with
  | zero => decide
  | succ n ih => simp [pulses, ih]

theorem count_writeBits (n : Nat) (w : WireByte) :
    (writeBits n w).count .ch = n ∧ (writeBits n w).count .cl = n ∧
      (writeBits n w).count .d0 + (writeBits n w).count .d1 = n := by
  induction n generalizing w with
  | zero => decide +revert
  | succ n ih =>
    obtain ⟨h1, h2, h3⟩ := ih (w <<< 1)
    unfold writeBits dataOp
    split <;> simp [h1, h2] <;> omega

theorem count_pixelFrame (draw : BrCode) (p : Pixel) :
    (pixelFrame draw p).count .ch = 32 ∧ (pixelFrame draw p).count .cl = 32 ∧
      (pixelFrame draw p).count .d0 + (pixelFrame draw p).count .d1 = 32 := by
  simp only [pixelFrame, List.count_append, writeByte]
  have := count_writeBits 8 (brByte draw p.br)
  have := count_writeBits 8 (colByte p.b)
  have := count_writeBits 8 (colByte p.g)
  have := count_writeBits 8 (colByte p.r)
  omega

/-! ## Places -/

@[simp] theorem pixelAt_fin (pb : Buffer) (i : Fin Config.nPix) : pixelAt pb i.val = pb[i] := by
  simp [pixelAt]

/-- The pixel frames as the concatenation over the numbers 0 to 7. -/
theorem pixelFrames_range (draw : Nat → BrCode) (pb : Buffer) :
    pixelFrames draw pb = (List.range 8).flatMap fun i => pixelFrame (draw i) (pixelAt pb i) := by
  simp [pixelFrames, Config.nPix, List.finRange_succ, List.range_succ, pixelAt]

/-- What stands at a place of a concatenation of lists of one length. -/
theorem getElem?_flatMap_range {α : Type} (f : Nat → List α) (len : Nat)
    (hf : ∀ i, (f i).length = len) (n k : Nat) (h : k < len * n) :
    ((List.range n).flatMap f)[k]? = (f (k / len))[k % len]? := by
  induction n with
  | zero => omega
  | succ n ih =>
    have hl : ((List.range n).flatMap f).length = len * n := by simp [List.length_flatMap, hf, Nat.mul_comm]
    rw [List.range_succ, List.flatMap_append]
    by_cases hk : k < len * n
    · rw [List.getElem?_append_left (by omega), ih hk]
    · have hq : k / len = n := Nat.div_eq_of_lt_le (by rw [Nat.mul_comm]; omega) (by rw [Nat.mul_comm]; exact h)
      have hm : k % len = k - len * n := by have := Nat.div_add_mod k len; rw [hq] at this; omega
      rw [List.getElem?_append_right (by omega), hl, hq, hm]
      simp

theorem getElem?_pulses (n k : Nat) (h : k < 2 * n) : (pulses n)[k]? = some (pulseOp k) := by
  induction n generalizing k with
  | zero => omega
  | succ n ih =>
    rcases k with _ | _ | k
    · rfl
    · rfl
    · simp only [pulses, List.getElem?_cons_succ, ih k (by omega), pulseOp, show (k + 1 + 1) % 2 = k % 2 by omega]

/-- The bit cells of a byte: the DATA operation of bit `7 - k / 3`, then CH, then CL (R79, R127). -/
theorem getElem?_writeByte (v : WireByte) (k : Nat) (h : k < 24) :
    (writeByte v)[k]? = some (if k % 3 = 0 then dataOp (v.getLsbD (7 - k / 3)) else if k % 3 = 1 then .ch else .cl) := by
  revert v
  interval_cases k <;> decide +kernel

/-- A pixel frame: byte `k / 24`, in the order brightness, blue, green, red (R129). -/
theorem getElem?_pixelFrame (draw : BrCode) (p : Pixel) (k : Nat) (h : k < 96) :
    (pixelFrame draw p)[k]? = some (if k % 3 = 0 then dataOp ((frameByte draw p (k / 24)).getLsbD (7 - k % 24 / 3))
      else if k % 3 = 1 then .ch else .cl) := by
  have hb : pixelFrame draw p = (List.range 4).flatMap fun c => writeByte (frameByte draw p c) := by
    simp [pixelFrame, List.range_succ, frameByte]
  rw [hb, getElem?_flatMap_range _ 24 (fun _ => length_writeByte _) 4 k (by omega),
    getElem?_writeByte _ _ (by omega)]
  simp only [show k % 24 % 3 = k % 3 by omega]

theorem getElem?_pixelFrames (draw : Nat → BrCode) (pb : Buffer) (k : Nat) (h : k < 768) :
    (pixelFrames draw pb)[k]? = (pixelFrame (draw (k / 96)) (pixelAt pb (k / 96)))[k % 96]? := by
  rw [pixelFrames_range, getElem?_flatMap_range _ 96 (fun _ => length_pixelFrame _ _) 8 k (by omega)]

/-! ## Samples (R148) -/

theorem sampledFrom_append (l : Levels) (xs ys : List LineOp) :
    sampledFrom l (xs ++ ys) = sampledFrom l xs ++ sampledFrom (l.after xs) ys := by
  induction xs generalizing l with
  | nil => rfl
  | cons x xs ih =>
    simp only [List.cons_append, sampledFrom, ih]
    split <;> rfl

theorem sampledFrom_pulses (n : Nat) (d : Bool) : sampledFrom ⟨d, false⟩ (pulses n) = List.replicate n d := by
  induction n with
  | zero => rfl
  | succ n ih => simp [pulses, sampledFrom, Levels.apply, ih, List.replicate_succ]

theorem sampledFrom_resetFrame (n : Nat) (d : Bool) :
    sampledFrom ⟨d, false⟩ (resetFrame n) = List.replicate n false := by
  simp [resetFrame, sampledFrom, Levels.apply, sampledFrom_pulses]

theorem sampledFrom_writeByte (v : WireByte) (d : Bool) :
    sampledFrom ⟨d, false⟩ (writeByte v) = (List.range 8).map fun n => v.getLsbD (7 - n) := by
  revert v d
  decide +kernel

theorem Levels.after_writeByte_clock (v : WireByte) (l : Levels) (h : l.clock = false) :
    (l.after (writeByte v)).clock = false := Levels.after_writeBits_clock 8 v l h

theorem Levels.eq_of_clock {l : Levels} (h : l.clock = false) : l = ⟨l.data, false⟩ := by
  obtain ⟨d, c⟩ := l
  subst h
  rfl

theorem Levels.after_pixelFrame_clock (draw : BrCode) (p : Pixel) (l : Levels) (h : l.clock = false) :
    (l.after (pixelFrame draw p)).clock = false := by
  simp only [pixelFrame, Levels.after_append]
  exact after_writeByte_clock _ _ (after_writeByte_clock _ _ (after_writeByte_clock _ _ (after_writeByte_clock _ _ h)))

/-- A pixel frame is sampled as the 32 bits of its pixel word, bit 31 first (R81). -/
theorem sampledFrom_pixelFrame (draw : BrCode) (p : Pixel) (l : Levels) (h : l.clock = false) :
    sampledFrom l (pixelFrame draw p) = (List.range 32).map fun n => (pixelWord draw p).getLsbD (31 - n) := by
  have byte : ∀ (v : WireByte) (l : Levels), l.clock = false →
      sampledFrom l (writeByte v) = (List.range 8).map fun n => v.getLsbD (7 - n) := fun v l hl => by
    rw [Levels.eq_of_clock hl, sampledFrom_writeByte]
  have low := Levels.after_writeByte_clock
  simp only [pixelFrame, List.append_assoc, sampledFrom_append]
  rw [byte _ _ h, byte _ _ (low _ _ h), byte _ _ (low _ _ (low _ _ h)), byte _ _ (low _ _ (low _ _ (low _ _ h)))]
  unfold pixelWord
  simp only [BitVec.getLsbD_append]
  simp [List.range_succ]

/-- CLOCK is low after a commit's pixel frames when it was low before them (R79). -/
theorem Levels.after_pixelFrames_clock (draw : Nat → BrCode) (pb : Buffer) (l : Levels) (h : l.clock = false) :
    (l.after (pixelFrames draw pb)).clock = false := by
  rw [pixelFrames_range]
  generalize (8 : Nat) = n
  induction n with
  | zero => exact h
  | succ n ih =>
    rw [List.range_succ, List.flatMap_append, Levels.after_append]
    simpa using Levels.after_pixelFrame_clock _ _ _ ih

/-- Both lines are low after a commit, whatever they were before it (R155). -/
theorem Levels.after_frame (draw : Nat → BrCode) (pb : Buffer) (l : Levels) : l.after (frame draw pb) = .low := by
  have start : (l.after (resetFrame Config.startPulses)).clock = false := by
    obtain ⟨d, c⟩ := l
    exact congrArg Levels.clock (Levels.after_pulses 31 .low rfl)
  simp only [frame, Levels.after_append]
  exact Levels.after_resetFrame _ _ (Levels.after_pixelFrames_clock draw pb _ start)

end Sys2Proof.Machine
end

