-- ==== Sys2Proof/Laws/Float.lean ====
section
/-! SUPPORT. The integer facts behind the two numeric primitives (41_encode.md R122, R125): the bit length, the integer part
and the rounding shift, each under a scaling by a power of two. -/

namespace Sys2Proof.Machine

theorem bitLength_of_pos {n : Nat} (h : 0 < n) : bitLength n = Nat.log2 n + 1 := by
  unfold bitLength
  rw [if_neg (by omega)]

theorem two_pow_le_of_bitLength {n : Nat} (h : 0 < n) : 2 ^ (bitLength n - 1) ≤ n := by
  rw [bitLength_of_pos h, Nat.add_sub_cancel]
  exact Nat.log2_self_le (by omega)

theorem lt_two_pow_bitLength (n : Nat) : n < 2 ^ bitLength n := by
  unfold bitLength
  split
  · subst_vars; decide
  · exact Nat.lt_log2_self

theorem bitLength_eq {n l : Nat} (h1 : 2 ^ l ≤ n) (h2 : n < 2 ^ (l + 1)) : bitLength n = l + 1 := by
  have hn : 0 < n := lt_of_lt_of_le (by positivity) h1
  rw [bitLength_of_pos hn]
  exact congrArg (· + 1) ((Nat.log2_eq_iff (by omega)).mpr ⟨h1, h2⟩)

theorem bitLength_mul_two_pow {n : Nat} (h : 0 < n) (k : Nat) : bitLength (n * 2 ^ k) = bitLength n + k := by
  have h1 := two_pow_le_of_bitLength h
  have h2 := lt_two_pow_bitLength n
  rw [bitLength_of_pos h] at h1 h2 ⊢
  rw [Nat.add_sub_cancel] at h1
  rw [bitLength_eq (l := Nat.log2 n + k)]
  · omega
  · rw [pow_add]; exact Nat.mul_le_mul_right _ h1
  · rw [Nat.add_right_comm, pow_add]; exact Nat.mul_lt_mul_of_pos_right h2 (by positivity)

/-- The integer part of a value does not depend on how it is written as a multiple of a power of two. -/
theorem floorMag_mul_two_pow (n k : Nat) (e : Int) : floorMag (n * 2 ^ k) (e - k) = floorMag n e := by
  unfold floorMag
  by_cases h : 0 ≤ e - k
  · rw [if_pos h, if_pos (by omega), Nat.mul_assoc, ← pow_add]
    congr 2
    omega
  · rw [if_neg h]
    by_cases h2 : 0 ≤ e
    · have hk : k = e.toNat + (-(e - k)).toNat := by omega
      rw [if_pos h2]
      nth_rw 1 [hk]
      rw [pow_add, ← Nat.mul_assoc, Nat.mul_div_cancel _ (by positivity)]
    · rw [if_neg h2, show (-(e - k)).toNat = (-e).toNat + k by omega, pow_add, Nat.mul_div_mul_right _ _ (by positivity)]

theorem roundShift_mul_two_pow (n d k : Nat) : roundShift (n * 2 ^ k) (d + k) = roundShift n d := by
  have hq : n * 2 ^ k / 2 ^ (d + k) = n / 2 ^ d := by rw [pow_add, Nat.mul_div_mul_right _ _ (by positivity)]
  have hr : n * 2 ^ k % 2 ^ (d + k) = n % 2 ^ d * 2 ^ k := by rw [pow_add, Nat.mul_mod_mul_right]
  have hp : 0 < 2 ^ k := by positivity
  unfold roundShift
  simp only [hq, hr]
  rw [show 2 * (n % 2 ^ d * 2 ^ k) = 2 * (n % 2 ^ d) * 2 ^ k by ring, pow_add]
  simp only [gt_iff_lt, Nat.mul_lt_mul_right hp, Nat.mul_left_inj (Nat.pos_iff_ne_zero.mp hp)]

/-- A shift that drops only zeros does not round. -/
theorem roundShift_exact (n d : Nat) : roundShift (n * 2 ^ d) d = n := by
  have h := roundShift_mul_two_pow n 0 d
  rw [Nat.zero_add] at h
  rw [h]
  simp [roundShift, Nat.mod_one]

/-- The multiplier is 31 exactly (G2): `31 * 2^48 * 2^(-48)`. -/
theorem ofBits_brScaleBits : F64.ofBits Config.brScaleBits = .fin false (31 * 2 ^ 48) (-48) := by decide

end Sys2Proof.Machine
end

