-- ==== Sys2Proof/Laws/PerInstr.lean ====
section
/-! SUPPORT. Facts about every instruction as syntax, one lemma per constructor. Family OpByte: the op byte of the word
an instruction encodes to is the one of the opcode table, and it selects the instruction's format (R72). -/

namespace Sys2Proof.Laws.OpByte

open Sys2Proof.Machine

/-- The word of `i` carries the op byte of `i`, and that op byte selects the format of `i`. -/
def Statement (i : Instr) : Prop := fieldOp (encode i) = i.op ∧ formatOfOp (fieldOp (encode i)) = some i.format

theorem statement_of_wordOf {i : Instr} {idx : Index} {r g b : Colour} {br : Brightness}
    (h : encode i = wordOf i.op idx r g b br) (hf : formatOfOp i.op = some i.format) : Statement i := by
  unfold Statement
  rw [h, (fields_wordOf ..).1]
  exact ⟨rfl, hf⟩

theorem setpixel (idx : Index) (r g b : Colour) (br : Brightness) : Statement (.setpixel idx r g b br) :=
  statement_of_wordOf rfl rfl
theorem setcolor (idx : Index) (r g b : Colour) : Statement (.setcolor idx r g b) := statement_of_wordOf rfl rfl
theorem setbright (idx : Index) (br : Brightness) : Statement (.setbright idx br) := statement_of_wordOf rfl rfl
theorem setall (r g b : Colour) (br : Brightness) : Statement (.setall r g b br) := statement_of_wordOf rfl rfl
theorem read (idx : Index) : Statement (.read idx) := statement_of_wordOf rfl rfl
theorem showFrame : Statement .showFrame := statement_of_wordOf rfl rfl
theorem clear : Statement .clear := statement_of_wordOf rfl rfl
theorem setcoe (en : Bool) : Statement (.setcoe en) := statement_of_wordOf rfl rfl

end Sys2Proof.Laws.OpByte
end

