-- ==== Sys2Proof/Laws/Step.lean ====
section
/-! SUPPORT. What a command, a cycle and a step can do, said once. -/

namespace Sys2Proof.Machine

/-- Everything an accepted command can do (R101 to R105, R140, R141, R170): write one pixel, fill the buffer, read one
pixel, start a commit (of the buffer or of the zeroed buffer), write COE, or raise IndexOutOfRange. -/
theorem exec_cases (i : Instr) (s : State) : ∃ t, exec i s = .next t ∧
    ((∃ k f v, t = s.writePixel k f v) ∨ (∃ v, t = s.fillPixels v) ∨
      (∃ k : Fin Config.nPix, t = { s with rdata := .valid s.pb[k] }) ∨
      t = s.startCommit ∨ t = (s.fillPixels .zero).startCommit ∨ (∃ en, t = { s with coe := en }) ∨
      (∃ idx : Index, pixelIndex idx = none ∧ t = s.raise .indexOutOfRange idx)) := by
  have write : ∀ idx f v, ∃ t, pbWrite idx f v s = .next t ∧ ((∃ k f v, t = s.writePixel k f v) ∨
      (∃ idx : Index, pixelIndex idx = none ∧ t = s.raise .indexOutOfRange idx)) := by
    intro idx f v
    obtain ⟨k, -, h⟩ | ⟨hn, h⟩ := withPixel_cases idx s fun k => s.writePixel k f v
    · exact ⟨_, h, .inl ⟨k, f, v, rfl⟩⟩
    · exact ⟨_, h, .inr ⟨idx, hn, rfl⟩⟩
  have widen : ∀ {r : Result}, (∃ t, r = .next t ∧ ((∃ k f v, t = s.writePixel k f v) ∨
      (∃ idx : Index, pixelIndex idx = none ∧ t = s.raise .indexOutOfRange idx))) → ∃ t, r = .next t ∧
    ((∃ k f v, t = s.writePixel k f v) ∨ (∃ v, t = s.fillPixels v) ∨
      (∃ k : Fin Config.nPix, t = { s with rdata := .valid s.pb[k] }) ∨
      t = s.startCommit ∨ t = (s.fillPixels .zero).startCommit ∨ (∃ en, t = { s with coe := en }) ∨
      (∃ idx : Index, pixelIndex idx = none ∧ t = s.raise .indexOutOfRange idx)) := by
    rintro r ⟨t, h, hw | hr⟩
    · exact ⟨t, h, .inl hw⟩
    · exact ⟨t, h, .inr (.inr (.inr (.inr (.inr (.inr hr)))))⟩
  cases i with
  | setpixel idx r g b br => exact widen (write idx _ _)
  | setcolor idx r g b => exact widen (write idx _ _)
  | setbright idx br => exact widen (write idx _ _)
  | setall r g b br => exact ⟨_, rfl, .inr (.inl ⟨_, rfl⟩)⟩
  | read idx =>
    obtain ⟨k, -, h⟩ | ⟨hn, h⟩ := withPixel_cases idx s fun k => { s with rdata := .valid s.pb[k] }
    · exact ⟨_, h, .inr (.inr (.inl ⟨k, rfl⟩))⟩
    · exact ⟨_, h, .inr (.inr (.inr (.inr (.inr (.inr ⟨idx, hn, rfl⟩)))))⟩
  | showFrame => exact ⟨_, rfl, .inr (.inr (.inr (.inl rfl)))⟩
  | clear => exact ⟨_, rfl, .inr (.inr (.inr (.inr (.inl rfl))))⟩
  | setcoe en => exact ⟨_, rfl, .inr (.inr (.inr (.inr (.inr (.inl ⟨en, rfl⟩)))))⟩

/-- An accepted word runs its command or raises IllegalCommand with its reserved op (R100, R184). -/
theorem acceptWord_cases (w : CmdWord) (s : State) :
    (∃ i, decode w = .ok i ∧ acceptWord w s = exec i s) ∨
      (formatOfOp (fieldOp w) = none ∧
        acceptWord w s = .next (s.raise .illegalCommand ((fieldOp w).setWidth 32))) := by
  unfold acceptWord
  obtain ⟨i, h, -, -⟩ | ⟨h, hf⟩ := decode_cases w
  · exact .inl ⟨i, h, by rw [h]⟩
  · exact .inr ⟨hf, by rw [h]⟩

/-- The six things a cycle can be, in the order of R192. -/
theorem cycle_cases (p : Pins) (s : State) :
    (p.rst = true ∧ cycle p s = .next (s.resetTo p.cfgOk)) ∨
    (p.rst = false ∧ s.frozen = true ∧ cycle p s = .next s) ∨
    (p.rst = false ∧ s.frozen = false ∧ s.st = .transmitting ∧ cycle p s = .next (s.tx.latchExit p.exitReq)) ∨
    (p.rst = false ∧ s.frozen = false ∧ s.st = .idle ∧ (s.exitp || p.exitReq) = true ∧
      cycle p s = .next s.exitCycle) ∨
    (p.rst = false ∧ s.frozen = false ∧ s.st = .idle ∧ s.exitp = false ∧ p.exitReq = false ∧ p.cmdValid = true ∧
      cycle p s = acceptWord p.cmd s) ∨
    (p.rst = false ∧ s.frozen = false ∧ s.st = .idle ∧ s.exitp = false ∧ p.exitReq = false ∧ p.cmdValid = false ∧
      cycle p s = .next s) := by
  unfold cycle State.busy
  cases hr : p.rst
  · cases hf : s.frozen
    · cases hs : s.st <;> cases he : s.exitp <;> cases hq : p.exitReq <;> cases hv : p.cmdValid <;>
        simp [Transport.bit]
    · simp
  · simp

/-- What the exit branch of a cycle can leave: the request only latched, the final clear started, or the block halted;
EXITP is set in each (R171 to R173). -/
theorem State.exitCycle_cases (s : State) : ∃ n,
    (s.exitp = false ∧ s.exitCycle = { s with exitp := true, freeIndex := n }) ∨
    (s.coe = true ∧ s.finalSent = false ∧ s.exitCycle =
      { s with exitp := true, pb := Buffer.zero, finalSent := true, st := .transmitting, pos := 0, freeIndex := n }) ∨
    ((s.coe = false ∨ s.finalSent = true) ∧ s.exitCycle = { s with exitp := true, halt := true, freeIndex := n }) := by
  obtain ⟨pb, data, clock, st, pos, fault, finfo, halt, coe, exitp, fin, rdata, trace, commits, fi, inputs⟩ := s
  unfold State.exitCycle State.exitService State.startCommit State.fillPixels
  cases exitp
  · cases hq : Config.exitServedSameCycle fi
    · exact ⟨_, .inl ⟨rfl, rfl⟩⟩
    · cases coe <;> cases fin
      · exact ⟨_, .inr (.inr ⟨.inl rfl, rfl⟩)⟩
      · exact ⟨_, .inr (.inr ⟨.inl rfl, rfl⟩)⟩
      · exact ⟨_, .inr (.inl ⟨rfl, rfl, rfl⟩)⟩
      · exact ⟨_, .inr (.inr ⟨.inr rfl, rfl⟩)⟩
  · cases coe <;> cases fin
    · exact ⟨_, .inr (.inr ⟨.inl rfl, rfl⟩)⟩
    · exact ⟨_, .inr (.inr ⟨.inl rfl, rfl⟩)⟩
    · exact ⟨_, .inr (.inl ⟨rfl, rfl, rfl⟩)⟩
    · exact ⟨_, .inr (.inr ⟨.inr rfl, rfl⟩)⟩

@[simp] theorem State.tx_trace (s : State) : s.tx.trace = s.trace ++ [frameOp s.draw s.pb s.pos] := by
  simp [State.tx]

end Sys2Proof.Machine
end

