-- ==== Sys2Proof/Laws/Run.lean ====
section
/-! SUPPORT. Runs of many cycles: how they are put together, and what one cycle of a transmission is. -/

namespace Sys2Proof.Machine

/-- What the host's run makes of the first step. -/
theorem core_run_succ (M : Host.Core) (n : Nat) (s : M.State) : M.run (n + 1) s =
    (match M.step s with
      | .next t => M.run n t
      | .fault r => .fault r
      | .refused r => .refused r) := rfl

/-- `runCycles` is the host's run of this machine. -/
theorem runCycles_eq_core_run (n : Nat) (s : State) : Host.Core.run Sys2Proof.core n s = runCycles n s := by
  induction n generalizing s with
  | zero => rfl
  | succ n ih =>
    refine (core_run_succ Sys2Proof.core n s).trans ?_
    have hstep : Sys2Proof.core.step s = step s := rfl
    rw [hstep]
    unfold runCycles
    cases step s with
    | next t => exact ih t
    | fault r => rfl
    | refused r => rfl

theorem runCycles_succ {s t : State} (h : step s = .next t) (n : Nat) : runCycles (n + 1) s = runCycles n t := by
  simp only [runCycles, h]

theorem runCycles_add {m : Nat} {s t : State} (h : runCycles m s = .next t) (n : Nat) :
    runCycles (m + n) s = runCycles n t := by
  induction m generalizing s with
  | zero =>
    cases h
    rw [Nat.zero_add]
  | succ m ih =>
    rw [Nat.add_right_comm]
    cases hs : step s with
    | next u =>
      rw [runCycles_succ hs] at h ⊢
      exact ih h
    | fault r => simp [runCycles, hs] at h
    | refused r => simp [runCycles, hs] at h

/-- A stretch of cycles without reset: the first cycle has none, nor have the others. -/
theorem State.noResetFor_succ {n : Nat} {s : State} (h : s.noResetFor (n + 1) = true) :
    s.pins.rst = false ∧ s.sampled.noResetFor n = true := by
  unfold State.noResetFor State.pins at *
  cases hi : s.inputs with
  | nil => simp [State.sampled, hi, Pins.quiet]
  | cons p r => simp_all [State.sampled]

/-- Without reset and fault, a transmitting block takes the Tx step, and latches the exit request (R192). -/
theorem step_of_transmitting {s : State} (hs : s.st = .transmitting) (hf : s.frozen = false)
    (hr : s.pins.rst = false) : step s = .next (s.sampled.tx.latchExit s.pins.exitReq) := by
  have hf' : s.sampled.frozen = false := hf
  have hb : s.sampled.busy = true := by simp [State.busy, hs, Transport.bit]
  simp [step, cycle, hr, hf', hb]

/-- Without reset and fault, an Idle block with a pending exit is served (R192 item 4). -/
theorem step_of_exit_pending {s : State} (hs : s.st = .idle) (he : s.exitp = true) (hf : s.frozen = false)
    (hr : s.pins.rst = false) : step s = .next s.sampled.exitService := by
  have hf' : s.sampled.frozen = false := hf
  have hb : s.sampled.busy = false := by simp [State.busy, hs, Transport.bit]
  simp [step, cycle, hr, hf', hb, he, State.exitCycle]

end Sys2Proof.Machine
end

