-- ==== Sys2Proof/Tests/Slice0.lean ====
section
/-! SUPPORT. Tests with expected values from the spec (95_test_vectors.md unless another place is named), and for each
statement with hypotheses a witness that meets them. -/

namespace Sys2Proof.Tests

open Sys2Proof.Machine

/-! ## Well-formedness: an ill-formed term for each check -/

theorem test_operand_too_large : AsmLine.wellFormed (.read (2 ^ 32)) = false := by decide
theorem test_operand_too_small : AsmLine.wellFormed (.setcolor 0 (-(2 ^ 31) - 1) 0 0) = false := by decide
theorem test_operand_limits : AsmLine.wellFormed (.setall (-(2 ^ 31)) (2 ^ 32 - 1) 0 (.raw 0)) = true := by decide
theorem test_enable_not_a_bit : AsmLine.wellFormed (.setcoe 2) = false := by decide
theorem test_setpixel_green_too_large : AsmLine.wellFormed (.setpixel 0 0 (2 ^ 32) 0 (.raw 0)) = false := by decide
theorem test_setbright_index_too_large : AsmLine.wellFormed (.setbright (2 ^ 32) (.raw 0)) = false := by decide
theorem test_reserved_word_not_canonical : canonicalWord 0#200 = false := by decide
theorem test_show_with_operand_bits_not_canonical :
    canonicalWord 0x06_FFFFFFFF_FFFFFFFF_FFFFFFFF_FFFFFFFF_FFFFFFFFFFFFFFFF#200 = false := by decide
theorem test_setcoe_with_bit_161_not_canonical :
    canonicalWord 0x08_00000002_00000000_00000000_00000000_0000000000000000#200 = false := by decide

/-! ## Decoding: words written out from the field table (section 3) -/

theorem test_decode_setpixel : decode 0x01_00000000_000000FF_00000000_00000000_3FE0000000000000#200
    = .ok (.setpixel 0 255 0 0 0x3FE0000000000000#64) := by decide
theorem test_decode_setcolor : decode 0x02_FFFFFFFF_00000001_00000002_00000003_0000000000000000#200
    = .ok (.setcolor 0xFFFFFFFF#32 1 2 3) := by decide
theorem test_decode_setbright : decode 0x03_00000008_00000000_00000000_00000000_3FE0000000000000#200
    = .ok (.setbright 8 0x3FE0000000000000#64) := by decide
theorem test_decode_setall : decode 0x04_00000000_000000FF_000000FE_000000FD_3FF0000000000000#200
    = .ok (.setall 255 254 253 0x3FF0000000000000#64) := by decide
theorem test_decode_read : decode 0x05_00000002_00000000_00000000_00000000_0000000000000000#200
    = .ok (.read 2) := by decide
/-- The operand bits are ignored (section 2.6). -/
theorem test_decode_show : decode 0x06_FFFFFFFF_FFFFFFFF_FFFFFFFF_FFFFFFFF_FFFFFFFFFFFFFFFF#200
    = .ok .showFrame := by decide
theorem test_decode_clear : decode 0x07_00000000_00000000_00000000_00000000_0000000000000000#200 = .ok .clear := by
  decide
theorem test_decode_setcoe : decode 0x08_00000001_00000000_00000000_00000000_0000000000000000#200
    = .ok (.setcoe true) := by decide
theorem test_decode_reserved : decode 0x09_00000001_00000000_00000000_00000000_0000000000000000#200
    = .error (.reservedOp 9) := by decide
theorem test_table_word : decodeTableWord 200 0x08000000000000000000000000000000000000000000000000
    = some (.setcoe false) := by decide

/-! ## The encoder -/

/-- Section 2.1. -/
theorem test_colour_bytes : [300, 256, 511, 0xFFFFFFFF, 0xFFFFFF00, 0xFFFFFED4].map (fun n => colByte (BitVec.ofNat 32 n))
    = [44#8, 0#8, 255#8, 255#8, 0#8, 212#8] := by decide
/-- Section 2.2: 0.0, -0.0, 0.1, 0.5, 1.0, 1.04, 8.26, 10.0. -/
theorem test_brightness_bytes : [0x0000000000000000, 0x8000000000000000, 0x3FB999999999999A, 0x3FE0000000000000,
    0x3FF0000000000000, 0x3FF0A3D70A3D70A4, 0x4020851EB851EB85, 0x4024000000000000].map
      (fun n => brByte 0 (BitVec.ofNat 64 n)) = [224#8, 224#8, 227#8, 239#8, 255#8, 224#8, 224#8, 246#8] := by
  decide +kernel
/-- Section 2.2: -0.03, -0.04, -0.5, -2.0, 69273666.0, -69273666.0. -/
theorem test_brightness_bytes_outside : [0xBF9EB851EB851EB8, 0xBFA47AE147AE147B, 0xBFE0000000000000,
    0xC000000000000000, 0x4190842108000000, 0xC190842108000000].map (fun n => brByte 0 (BitVec.ofNat 64 n))
      = [224#8, 255#8, 241#8, 226#8, 254#8, 226#8] := by decide
/-- Section 2.2, the rounding of the product: k = 1, 16, 29, 30. -/
theorem test_brightness_rounding : [0x3FA0842108421084, 0x3FE0842108421084, 0x3FEDEF7BDEF7BDEF, 0x3FEEF7BDEF7BDEF8].map
    (fun n => brByte 0 (BitVec.ofNat 64 n)) = [225#8, 240#8, 253#8, 254#8] := by decide
/-- Section 2.2: the undefined range. -/
theorem test_brightness_undefined : [0x419084210C000000, 0xC19084210C000000, 0x7FEFFFFFFFFFFFFF, 0xFFF0000000000000,
    0x7FF8000000000000].all (fun n => undefinedBr (BitVec.ofNat 64 n)) = true := by decide
/-- S6. -/
theorem test_write_byte : writeByte 0b10110000#8 = [.d1, .ch, .cl, .d0, .ch, .cl, .d1, .ch, .cl, .d1, .ch, .cl,
    .d0, .ch, .cl, .d0, .ch, .cl, .d0, .ch, .cl, .d0, .ch, .cl] := by decide
/-- Section 2.5: (0x10, 0x20, 0x30, 0.0) and (300, -1, 256, 1.5). -/
theorem test_pixel_words : pixelWord 0 ⟨0x10, 0x20, 0x30, 0⟩ = 0xE0302010#32 ∧
    pixelWord 0 ⟨300, 0xFFFFFFFF#32, 256, 0x3FF8000000000000#64⟩ = 0xEE00FF2C#32 := by decide +kernel
/-- Section 2.4. -/
theorem test_reset_frame_head : (resetFrame 36).take 5 = [.d0, .ch, .cl, .ch, .cl] ∧ (resetFrame 36).length = 73 := by
  decide
/-- The places of Frame(PB) listed in section 2.5. -/
theorem test_frame_places : [0, 1, 64, 65, 74, 832, 833, 834, 905].map
    (fun k => (frame (fun _ => 0) Buffer.zero)[k]?) = [.d0, .ch, .cl, .d1, .d0, .cl, .d0, .ch, .cl].map some := by
  decide +kernel

/-! ## The commands, one step each from a small state -/

/-- The state in which the word `w` is presented in the next cycle. -/
def present (w : CmdWord) (s : State) : State := { s with inputs := [⟨false, true, true, w, false⟩] }

/-- Whether the next state has a property. -/
def afterStep (s : State) (property : State → Bool) : Bool :=
  match step s with
  | .next t => property t
  | .fault _ => false
  | .refused _ => false

/-- A buffer whose entry 3 is (1, 2, 3, 0.25), for the vectors of section 2.6. -/
def sample : State := { State.reset with pb := Buffer.zero.set 3 ⟨1, 2, 3, 0x3FD0000000000000#64⟩ }

theorem test_setpixel : afterStep (present 0x01_00000007_00000001_00000002_00000003_3FF0000000000000#200 .reset)
    (fun t => t.pb[7] == ⟨1, 2, 3, 0x3FF0000000000000#64⟩ && t.pb[6] == .zero) = true := by decide
theorem test_setcolor : afterStep (present 0x02_00000003_0000012C_FFFFFFFF_00000100_0000000000000000#200 sample)
    (fun t => t.pb[3] == ⟨300, 0xFFFFFFFF#32, 256, 0x3FD0000000000000#64⟩) = true := by decide
theorem test_setcolor_negative_index :
    afterStep (present 0x02_FFFFFFFF_00000001_00000002_00000003_0000000000000000#200 sample)
      (fun t => t.fault == .indexOutOfRange && t.finfo == 0xFFFFFFFF#32 && t.pb == sample.pb) = true := by decide
theorem test_setbright : afterStep (present 0x03_00000003_00000000_00000000_00000000_3FF8000000000000#200 sample)
    (fun t => t.pb[3] == ⟨1, 2, 3, 0x3FF8000000000000#64⟩) = true := by decide
theorem test_setbright_index_8 :
    afterStep (present 0x03_00000008_00000000_00000000_00000000_3FE0000000000000#200 .reset)
      (fun t => t.fault == .indexOutOfRange && t.finfo == 8 && t.pb == Buffer.zero) = true := by decide
theorem test_setall : afterStep (present 0x04_00000000_00000001_00000002_00000003_3FD0000000000000#200 .reset)
    (fun t => t.pb == Vector.replicate 8 ⟨1, 2, 3, 0x3FD0000000000000#64⟩ && t.fault == .none) = true := by decide
theorem test_read : afterStep (present 0x05_00000003_00000000_00000000_00000000_0000000000000000#200 sample)
    (fun t => t.rdv && t.rsp == some 0x00000001_00000002_00000003_3FD0000000000000#160) = true := by decide
theorem test_read_bad_index :
    afterStep (present 0x05_7FFFFFFF_00000000_00000000_00000000_0000000000000000#200 sample)
      (fun t => t.fault == .indexOutOfRange && t.finfo == 0x7FFFFFFF#32 && !t.rdv) = true := by decide
theorem test_show : afterStep (present 0x06_00000000_00000000_00000000_00000000_0000000000000000#200 sample)
    (fun t => t.busy && t.pos == 0 && t.pb == sample.pb && t.trace == []) = true := by decide
theorem test_clear : afterStep (present 0x07_00000000_00000000_00000000_00000000_0000000000000000#200 sample)
    (fun t => t.busy && t.pos == 0 && t.pb == Buffer.zero) = true := by decide
theorem test_setcoe : afterStep (present 0x08_00000001_00000000_00000000_00000000_0000000000000000#200 .reset)
    (fun t => t.coe && !t.busy) = true := by decide
theorem test_setcoe_off : afterStep (present 0x08_FFFFFFFE_FFFFFFFF_00000000_00000000_0000000000000000#200
    { State.reset with coe := true }) (fun t => !t.coe) = true := by decide

/-! ## The other steps -/

/-- Section 2.7: a reserved op. -/
theorem test_illegal_command : afterStep (present 0xFF_00000000_00000000_00000000_00000000_0000000000000000#200 .reset)
    (fun t => t.fault == .illegalCommand && t.finfo == 0xFF) = true := by decide
/-- Section 2.7: reset with `cfg_ok` = 0. -/
theorem test_configuration_error : afterStep { sample with inputs := [⟨true, false, true, 0#200, true⟩] }
    (fun t => t.fault == .configurationError && t.finfo == 0 && t.pb == Buffer.zero && !t.exitp) = true := by decide
/-- Section 2.7: a faulted block accepts nothing. -/
theorem test_faulted_block : afterStep (present 0x04_00000000_00000001_00000002_00000003_3FD0000000000000#200
    { State.reset with fault := .indexOutOfRange }) (fun t => t.pb == Buffer.zero && !t.cmdReady .quiet) = true := by
  decide
set_option maxRecDepth 20000 in
/-- R142: the first operation of a commit is D0, at POS 0. -/
theorem test_tx_first : afterStep { State.reset with st := .transmitting, data := true }
    (fun t => t.trace == [.d0] && !t.data && t.pos == 1 && t.busy) = true := by decide
set_option maxRecDepth 20000 in
/-- R143: the last operation of a commit is CL, at POS 905. -/
theorem test_tx_last : afterStep { State.reset with st := .transmitting, pos := 905, clock := true }
    (fun t => t.trace == [.cl] && !t.clock && t.pos == 0 && !t.busy) = true := by decide
set_option maxRecDepth 20000 in
/-- Section 2.8: an exit request while transmitting at POS = 400. -/
theorem test_exit_request_in_transmission :
    afterStep { State.reset with st := .transmitting, pos := 400, coe := true, inputs := [⟨false, true, false, 0, true⟩] }
      (fun t => t.exitp && t.pos == 401 && t.busy && !t.halt) = true := by decide
/-- Section 2.8: COE = 0 halts. -/
theorem test_exit_halts : afterStep { sample with exitp := true } (fun t => t.halt && t.pb == sample.pb) = true := by
  decide
/-- Section 2.8: COE = 1 clears first. -/
theorem test_exit_clears : afterStep { sample with exitp := true, coe := true }
    (fun t => !t.halt && t.finalSent && t.busy && t.pb == Buffer.zero) = true := by decide
/-- Section 2.8: an exit request on a faulted block is ignored. -/
theorem test_exit_request_ignored :
    afterStep { State.reset with fault := .indexOutOfRange, inputs := [⟨false, true, false, 0, true⟩] }
      (fun t => !t.exitp && !t.halt) = true := by decide
/-- The host's probe: the word is fetched and run by the very next step. -/
theorem test_fetch_word : afterStep (State.reset.withFetchWord 200 0x08000000010000000000000000000000000000000000000000)
    (fun t => t.coe && t.inputs == []) = true := by decide

/-! ## The assembler (R85; section 2.2 for the raw bits) -/

theorem test_decimal_brightness : [(1, 1), (99, 2), (826, 2), (69273667, 0)].map
    (fun n : Nat × Nat => BrLit.bits (.decimal false n.1 n.2)) = [0x3FB999999999999A#64, 0x3FEFAE147AE147AE#64,
      0x4020851EB851EB85#64, 0x419084210C000000#64] := by decide
theorem test_negative_decimal : BrLit.bits (.decimal true 4 2) = 0xBFA47AE147AE147B#64 := by decide
theorem test_raw_brightness : parseBr "raw:0x7FF8000000000001".toList = some (.raw 0x7FF8000000000001#64) := by decide
theorem test_bad_line : assembleText "SETCOE 2".toList = none := by decide

/-! ## Witnesses: for each statement with hypotheses, operands and a state that meet them -/

theorem witness_canonical_word : canonicalWord 0x08_00000001_00000000_00000000_00000000_0000000000000000#200 = true ∧
    decode 0x08_00000001_00000000_00000000_00000000_0000000000000000#200 = .ok (.setcoe true) := by decide

set_option maxRecDepth 20000 in
theorem witness_unused_fields :
    formatOfOp (fieldOp 0x06_00000000_00000000_00000000_00000000_0000000000000000#200) = some .bare ∧
    ∀ k, k < 200 → (∀ range ∈ Format.bare.ignored, k < range.1 ∨ range.1 + range.2 ≤ k) →
      (0x06_00000000_00000000_00000000_00000000_0000000000000000#200).getLsbD k
        = (0x06_FFFFFFFF_FFFFFFFF_FFFFFFFF_FFFFFFFF_FFFFFFFFFFFFFFFF#200).getLsbD k := by decide

/-- Both clauses, at the ends of their ranges. -/
theorem witness_reserved_ops :
    (fieldOp 0#200 = 0x00#8) ∧ (0x09#8 ≤ fieldOp 0x09_00000000_00000000_00000000_00000000_0000000000000000#200) ∧
    (0x09#8 ≤ fieldOp 0xFF_00000000_00000000_00000000_00000000_0000000000000000#200) ∧
    (0x01#8 ≤ fieldOp 0x01_00000000_00000000_00000000_00000000_0000000000000000#200 ∧
      fieldOp 0x01_00000000_00000000_00000000_00000000_0000000000000000#200 ≤ 0x08#8) ∧
    (0x01#8 ≤ fieldOp 0x08_00000000_00000000_00000000_00000000_0000000000000000#200 ∧
      fieldOp 0x08_00000000_00000000_00000000_00000000_0000000000000000#200 ≤ 0x08#8) := by decide

/-- The op bytes 1 to 8, for the decoding clauses of the eight command statements. -/
theorem witness_op_bytes : ∀ i ∈ [Instr.setpixel 0 0 0 0 0, .setcolor 0 0 0 0, .setbright 0 0, .setall 0 0 0 0, .read 0,
    .showFrame, .clear, .setcoe true], (encode i).extractLsb' 192 8 = i.op := by decide

/-- The index clauses of SETPIXEL, SETCOLOR, SETBRIGHT and READ, at the ends of their ranges: 0 and 7 inside, -1 and 8 and
the extreme operands outside. -/
theorem witness_indices : (0#32).toInt = ((0 : Fin 8).val : Int) ∧ (7#32).toInt = ((7 : Fin 8).val : Int) ∧
    7 < (8#32).toInt ∧ (0xFFFFFFFF#32).toInt < 0 ∧ 7 < (0x7FFFFFFF#32).toInt ∧ (0x80000000#32).toInt < 0 := by decide

theorem witness_setcoe_frame : ∃ t : State, ({ State.reset with exitp := true, coe := true } : State).pins.rst = false ∧
    step { State.reset with exitp := true, coe := true } = .next t := ⟨_, rfl, rfl⟩

/-- A cycle that changes RDATA, and a word that meets the premise on the op byte. -/
theorem witness_read_changes : (present 0x05_00000003_00000000_00000000_00000000_0000000000000000#200 sample).pins.rst
    = false ∧ ∃ t, step (present 0x05_00000003_00000000_00000000_00000000_0000000000000000#200 sample) = .next t ∧
      t.rdata ≠ sample.rdata := ⟨rfl, _, rfl, by decide⟩

theorem witness_index_test : ∃ t, State.reset.fault = .none ∧ exec (.read 8) State.reset = .next t ∧ 7 < (8#32).toNat :=
  ⟨_, rfl, rfl, by decide⟩

theorem witness_commands_leave_lines : (∃ t, exec .showFrame State.reset = .next t) ∧
    (∃ t, exec (.setcoe true) State.reset = .next t ∧ (Instr.setcoe true).format ≠ .bare) ∧
    (∃ t, exec .clear State.reset = .next t ∧ Instr.clear.format ≠ .enable) :=
  ⟨⟨_, rfl⟩, ⟨_, rfl, by decide⟩, ⟨_, rfl, by decide⟩⟩

/-- An accepting state that presents a word; also for the runs that begin with SHOW or CLEAR, as more quiet cycles follow. -/
def showing : State := present 0x06_00000000_00000000_00000000_00000000_0000000000000000#200 .reset

theorem witness_step_runs : showing.accepting = true ∧ showing.inputs = [⟨false, true, true,
    0x06_00000000_00000000_00000000_00000000_0000000000000000#200, false⟩] ∧
    decode 0x06_00000000_00000000_00000000_00000000_0000000000000000#200 = .ok .showFrame := by decide
/-- The reserved clause, at 0x00 and at both ends of 0x09..0xFF. -/
theorem witness_step_reserved : ∀ op ∈ [0x00#8, 0x09#8, 0xFF#8], (present (wordOf op 0 0 0 0 0) .reset).accepting = true ∧
    (present (wordOf op 0 0 0 0 0) .reset).inputs = [⟨false, true, true, wordOf op 0 0 0 0 0, false⟩] ∧
    (fieldOp (wordOf op 0 0 0 0 0) = 0x00#8 ∨ 0x09#8 ≤ fieldOp (wordOf op 0 0 0 0 0)) := by decide

theorem witness_quiet_cycle : State.reset.st = .idle ∧ State.reset.pins.rst = false ∧ State.reset.exitp = false ∧
    State.reset.pins.exitReq = false ∧ State.reset.pins.cmdValid = false := by decide

theorem witness_not_ready : ({ State.reset with st := .transmitting } : State).cmdReady .quiet = false ∧
    State.reset.cmdReady ⟨false, true, true, 0#200, true⟩ = false := by decide

/-- A reset cycle with each value of `cfg_ok`. -/
theorem witness_reset_pins : ∀ c ∈ [false, true],
    ({ State.reset with st := .transmitting, inputs := [⟨true, c, false, 0#200, false⟩] } : State).inputs
      = [⟨true, c, false, 0#200, false⟩] ∧ (⟨true, c, false, 0#200, false⟩ : Pins).rst = true := by decide

theorem witness_frozen : (({ State.reset with halt := true } : State).halt = true ∧
    ({ State.reset with halt := true } : State).pins.rst = false) ∧
    ({ State.reset with fault := .illegalCommand } : State).fault ≠ .none ∧
    ({ State.reset with fault := .illegalCommand } : State).pins.rst = false := by decide

/-- Every register of the statement is set in one of the two states. -/
theorem witness_sticky :
    (∃ t, step { State.reset with fault := .indexOutOfRange, finfo := 8 } = .next t) ∧
    (∃ t, step { State.reset with halt := true, exitp := true, finalSent := true } = .next t) := ⟨⟨_, rfl⟩, ⟨_, rfl⟩⟩

set_option maxRecDepth 20000 in
/-- Both clauses on POS: before the last position and at it. -/
theorem witness_tx : ∀ p ∈ [(0 : Fin 906), 904, 905], ({ State.reset with st := .transmitting, pos := p } : State).frozen
    = false ∧ ({ State.reset with st := .transmitting, pos := p } : State).pins.rst = false := by decide

/-- Both clauses of the exit latch: a live block and a halted one. -/
theorem witness_exit_request :
    (∃ t, step { State.reset with st := .transmitting, inputs := [⟨false, true, false, 0#200, true⟩] } = .next t) ∧
    (∃ t, step { State.reset with halt := true, inputs := [⟨false, true, false, 0#200, true⟩] } = .next t) :=
  ⟨⟨_, rfl⟩, ⟨_, rfl⟩⟩

theorem witness_exit_service : ({ State.reset with exitp := true, coe := true } : State).frozen = false ∧
    ({ State.reset with exitp := true, coe := true } : State).finalSent = false ∧
    ({ State.reset with exitp := true, coe := true } : State).noResetFor 908 = true ∧
    ({ State.reset with exitp := true, coe := true, finalSent := true } : State).frozen = false := by decide

/-- An exit request first seen in Idle, with COE = 0 and with COE = 1. -/
theorem witness_exit_first_seen : ∀ c ∈ [false, true],
    ({ State.reset with coe := c, inputs := [⟨false, true, true, 0#200, true⟩] } : State).frozen = false ∧
    ({ State.reset with coe := c, inputs := [⟨false, true, true, 0#200, true⟩] } : State).exitp = false ∧
    ({ State.reset with coe := c, inputs := [⟨false, true, true, 0#200, true⟩] } : State).st = .idle ∧
    ({ State.reset with coe := c, inputs := [⟨false, true, true, 0#200, true⟩] } : State).pins.rst = false ∧
    ({ State.reset with coe := c, inputs := [⟨false, true, true, 0#200, true⟩] } : State).pins.exitReq = true := by decide

theorem witness_idle_step : ∃ t, step showing = .next t ∧ showing.st = .idle ∧ showing.pins.rst = false :=
  ⟨_, rfl, rfl, rfl⟩

theorem witness_or_form : brTrunc 0xBFE0000000000000#64 = some (-15) := by decide
theorem witness_undefined_range : undefinedBr 0x7FF8000000000000#64 = true := by decide
/-- The ends of the nominal range: 1.0 is the last pattern, and -0.0 stands alone. -/
theorem witness_nominal_range : (0x3FF0000000000000#64).toNat ≤ 0x3FF0000000000000 ∧
    (0#64).toNat ≤ 0x3FF0000000000000 := by decide

set_option maxRecDepth 20000 in
/-- A buffer with a NaN in entry 0: two draws give two frames there, at the lowest code bit. -/
theorem witness_draws :
    (frame (fun _ => 0) (Buffer.zero.set 0 ⟨0, 0, 0, 0x7FF8000000000000#64⟩))[86]? ≠
      (frame (fun _ => 1) (Buffer.zero.set 0 ⟨0, 0, 0, 0x7FF8000000000000#64⟩))[86]? := by decide

theorem witness_nominal_buffer : nominalBrightness Buffer.zero := by unfold nominalBrightness; decide +kernel

/-- The ends of the ranges of a position, a clock pulse, a reset frame's length and a width. -/
theorem witness_bounds : (∀ k ∈ [0, 1, 64, 65, 832, 833, 834, 905], k < 906) ∧
    (∀ m ∈ [0, 31, 32, 287, 288, 323], m < 324) ∧ (∀ n ∈ [1, 32, 36], 0 < n) ∧ 32 ≤ 32 := by decide

/-- Each kind of operation stands somewhere in a frame. -/
theorem witness_edges : [0, 65, 66, 67].map (fun k => (frame (fun _ => 0) Buffer.zero)[k]?)
    = [.d0, .d1, .ch, .cl].map some := by decide +kernel

theorem witness_transmission : ({ State.reset with st := .transmitting, pos := 905 } : State).frozen = false ∧
    ({ State.reset with st := .transmitting, pos := 905 } : State).noResetFor 906 = true := by decide

theorem witness_commit : showing.accepting = true ∧ showing.noResetFor 907 = true ∧
    fieldOp 0x06_00000000_00000000_00000000_00000000_0000000000000000#200 = 0x06#8 := by decide

theorem witness_commit_wire : showing.WireOk := by constructor <;> decide

theorem witness_clear_commit :
    (present 0x07_00000000_00000000_00000000_00000000_0000000000000000#200 .reset).accepting = true ∧
    (present 0x07_00000000_00000000_00000000_00000000_0000000000000000#200 .reset).noResetFor 907 = true := by decide

/-- The pins of two SHOW commands 907 cycles apart. -/
def showTwice : State := { State.reset with inputs :=
  ⟨false, true, true, 0x06_00000000_00000000_00000000_00000000_0000000000000000#200, false⟩ ::
    (List.replicate 906 Pins.quiet ++
      [⟨false, true, true, 0x06_00000000_00000000_00000000_00000000_0000000000000000#200, false⟩]) }

set_option maxRecDepth 20000 in
theorem witness_repeated_show : showTwice.accepting = true ∧ showTwice.noResetFor 1814 = true ∧
    (List.replicate 906 Pins.quiet).length = 906 ∧ ((List.replicate 906 Pins.quiet).all fun p => !p.exitReq) = true := by
  decide

theorem witness_good_end : State.reset.goodEnd = true ∧ State.reset.envQuiet = true ∧
    ({ State.reset with exitp := true, halt := true } : State).goodEnd = true := by decide

theorem witness_invariants : State.reset.RegistersOk ∧ State.reset.ExitOk ∧ State.reset.WireOk ∧
    ∃ t, step State.reset = .next t := by
  refine ⟨?_, ?_, ?_, _, rfl⟩ <;> constructor <;> decide

end Sys2Proof.Tests
end

section
/-! PROOFS. What an accepted word, a cycle and a step can do, as inductive relations, and what each leaves unchanged. -/

namespace Sys2Proof.Machine

/-! ## What an accepted word and a cycle can do, as relations -/

/-- What an accepted command word can make of the state (R100, R184): the effects of `exec_cases`, and the fault of a
reserved op. -/
inductive WordEffect (s : State) : State → Prop where
  | write (k : Fin Config.nPix) (f : FieldSet) (v : Pixel) : WordEffect s (s.writePixel k f v)
  | fill (v : Pixel) : WordEffect s (s.fillPixels v)
  | read (k : Fin Config.nPix) : WordEffect s { s with rdata := .valid s.pb[k] }
  | showFrame : WordEffect s s.startCommit
  | clear : WordEffect s (s.fillPixels .zero).startCommit
  | setcoe (en : Bool) : WordEffect s { s with coe := en }
  | fault (code : FaultCode) (info : BitVec 32) (hcode : code = .indexOutOfRange ∨ code = .illegalCommand)
      (hinfo : code.infoOk info = true) : WordEffect s (s.raise code info)

/-- A reserved op byte, zero-extended, is a FINFO of IllegalCommand (R184). -/
theorem infoOk_illegalCommand {op : OpByte} (h : formatOfOp op = none) :
    FaultCode.illegalCommand.infoOk (op.setWidth 32) = true := by
  simp [FaultCode.infoOk, h]
  omega

theorem acceptWord_effect (w : CmdWord) (s : State) : ∃ t, acceptWord w s = .next t ∧ WordEffect s t := by
  obtain ⟨i, -, hacc⟩ | ⟨hres, hacc⟩ := acceptWord_cases w s
  · obtain ⟨t, hexec, heff⟩ := exec_cases i s
    refine ⟨t, hacc.trans hexec, ?_⟩
    obtain ⟨k, f, v, rfl⟩ | ⟨v, rfl⟩ | ⟨k, rfl⟩ | rfl | rfl | ⟨en, rfl⟩ | ⟨idx, hidx, rfl⟩ := heff
    · exact .write k f v
    · exact .fill v
    · exact .read k
    · exact .showFrame
    · exact .clear
    · exact .setcoe en
    · exact .fault _ _ (.inl rfl) (by simp [FaultCode.infoOk, hidx])
  · exact ⟨_, hacc, .fault _ _ (.inr rfl) (infoOk_illegalCommand hres)⟩

/-- What one cycle with the pins `p` can make of the state, in the order of R192. -/
inductive CycleEffect (p : Pins) (s : State) : State → Prop where
  | reset (hrst : p.rst = true) : CycleEffect p s (s.resetTo p.cfgOk)
  | frozen (hrst : p.rst = false) (hfr : s.frozen = true) : CycleEffect p s s
  | tx (hrst : p.rst = false) (hfr : s.frozen = false) (hst : s.st = .transmitting) :
      CycleEffect p s (s.tx.latchExit p.exitReq)
  | latch (hrst : p.rst = false) (hfr : s.frozen = false) (hst : s.st = .idle) (hexit : s.exitp = false)
      (hreq : p.exitReq = true) (n : Nat) : CycleEffect p s { s with exitp := true, freeIndex := n }
  | finalClear (hrst : p.rst = false) (hfr : s.frozen = false) (hst : s.st = .idle)
      (hexit : (s.exitp || p.exitReq) = true) (hcoe : s.coe = true) (hfinal : s.finalSent = false) (n : Nat) :
      CycleEffect p s
        { s with exitp := true, pb := Buffer.zero, finalSent := true, st := .transmitting, pos := 0, freeIndex := n }
  | halt (hrst : p.rst = false) (hfr : s.frozen = false) (hst : s.st = .idle)
      (hexit : (s.exitp || p.exitReq) = true) (hdone : s.coe = false ∨ s.finalSent = true) (n : Nat) :
      CycleEffect p s { s with exitp := true, halt := true, freeIndex := n }
  | word (hrst : p.rst = false) (hfr : s.frozen = false) (hst : s.st = .idle) (hexit : s.exitp = false)
      (hreq : p.exitReq = false) (hvalid : p.cmdValid = true) {t : State} (heff : WordEffect s t) : CycleEffect p s t
  | quiet (hrst : p.rst = false) (hfr : s.frozen = false) (hst : s.st = .idle) (hexit : s.exitp = false)
      (hreq : p.exitReq = false) (hvalid : p.cmdValid = false) : CycleEffect p s s

theorem cycle_effect (p : Pins) (s : State) : ∃ t, cycle p s = .next t ∧ CycleEffect p s t := by
  obtain ⟨hrst, h⟩ | ⟨hrst, hfr, h⟩ | ⟨hrst, hfr, hst, h⟩ | ⟨hrst, hfr, hst, hexit, h⟩ |
    ⟨hrst, hfr, hst, hexit, hreq, hvalid, h⟩ | ⟨hrst, hfr, hst, hexit, hreq, hvalid, h⟩ := cycle_cases p s
  · exact ⟨_, h, .reset hrst⟩
  · exact ⟨_, h, .frozen hrst hfr⟩
  · exact ⟨_, h, .tx hrst hfr hst⟩
  · refine ⟨_, h, ?_⟩
    obtain ⟨n, ⟨hnew, heq⟩ | ⟨hcoe, hfinal, heq⟩ | ⟨hdone, heq⟩⟩ := s.exitCycle_cases <;> rw [heq]
    · exact .latch hrst hfr hst hnew (by simpa [hnew] using hexit) n
    · exact .finalClear hrst hfr hst hexit hcoe hfinal n
    · exact .halt hrst hfr hst hexit hdone n
  · obtain ⟨t, hacc, heff⟩ := acceptWord_effect p.cmd s
    exact ⟨t, h.trans hacc, .word hrst hfr hst hexit hreq hvalid heff⟩
  · exact ⟨_, h, .quiet hrst hfr hst hexit hreq hvalid⟩

theorem step_effect {s t : State} (h : step s = .next t) : CycleEffect s.pins s.sampled t := by
  obtain ⟨u, hu, heff⟩ := cycle_effect s.pins s.sampled
  cases hu.symm.trans h
  exact heff

@[simp] theorem State.sampled_frozen (s : State) : s.sampled.frozen = s.frozen := rfl

/-! ## What an accepted word leaves unchanged -/

/-- From `s` to `t` no line is driven (R24, R36) and no commit completed; POS stays or is set to 0, as the start of a
commit does. -/
structure SameLines (s t : State) : Prop where
  data : t.data = s.data
  clock : t.clock = s.clock
  trace : t.trace = s.trace
  commits : t.commits = s.commits
  pos : t.pos = s.pos ∨ t.pos = 0

theorem WordEffect.inputs_eq {s t : State} (h : WordEffect s t) : t.inputs = s.inputs := by
  cases h <;> rfl

/-- R58: an accepted word drives no line, SHOW and CLEAR included. -/
theorem WordEffect.sameLines {s t : State} (h : WordEffect s t) : SameLines s t := by
  cases h <;> constructor <;> simp

theorem WordEffect.exit_eq {s t : State} (h : WordEffect s t) :
    t.halt = s.halt ∧ t.exitp = s.exitp ∧ t.finalSent = s.finalSent := by
  cases h <;> simp

/-- An accepted word keeps FAULT and FINFO, or it raises a fault and leaves ST alone (R186). -/
theorem WordEffect.fault_cases {s t : State} (h : WordEffect s t) :
    (t.fault = s.fault ∧ t.finfo = s.finfo) ∨
      (t.st = s.st ∧ (t.fault = .indexOutOfRange ∨ t.fault = .illegalCommand) ∧ t.fault.infoOk t.finfo = true) := by
  cases h with
  | fault code info hcode hinfo => exact .inr ⟨rfl, hcode, hinfo⟩
  | _ => exact .inl ⟨rfl, rfl⟩

/-! ## The transmitter step, field by field (R142) -/

@[simp] theorem State.tx_pb (s : State) : s.tx.pb = s.pb := by simp [State.tx]
@[simp] theorem State.tx_fault (s : State) : s.tx.fault = s.fault := by simp [State.tx]
@[simp] theorem State.tx_finfo (s : State) : s.tx.finfo = s.finfo := by simp [State.tx]
@[simp] theorem State.tx_halt (s : State) : s.tx.halt = s.halt := by simp [State.tx]
@[simp] theorem State.tx_coe (s : State) : s.tx.coe = s.coe := by simp [State.tx]
@[simp] theorem State.tx_exitp (s : State) : s.tx.exitp = s.exitp := by simp [State.tx]
@[simp] theorem State.tx_finalSent (s : State) : s.tx.finalSent = s.finalSent := by simp [State.tx]
@[simp] theorem State.tx_rdata (s : State) : s.tx.rdata = s.rdata := by simp [State.tx]
@[simp] theorem State.tx_freeIndex (s : State) : s.tx.freeIndex = s.freeIndex := by simp [State.tx]
@[simp] theorem State.tx_inputs (s : State) : s.tx.inputs = s.inputs := by simp [State.tx]
@[simp] theorem State.tx_data (s : State) :
    s.tx.data = (Levels.apply ⟨s.data, s.clock⟩ (frameOp s.draw s.pb s.pos)).data := by simp [State.tx]
@[simp] theorem State.tx_clock (s : State) :
    s.tx.clock = (Levels.apply ⟨s.data, s.clock⟩ (frameOp s.draw s.pb s.pos)).clock := by simp [State.tx]

theorem State.tx_of_lt {s : State} (h : s.pos.val < 905) :
    s.tx.pos.val = s.pos.val + 1 ∧ s.tx.st = s.st ∧ s.tx.commits = s.commits := by
  simpa [State.tx] using (s.applyOp (frameOp s.draw s.pb s.pos)).advance_of_lt (by simpa using h)

theorem State.tx_of_last {s : State} (h : s.pos.val = 905) :
    s.tx.pos = 0 ∧ s.tx.st = .idle ∧ s.tx.commits = s.commits + 1 := by
  simpa [State.tx] using (s.applyOp (frameOp s.draw s.pb s.pos)).advance_of_last (by simpa using h)

theorem Levels.apply_data (l : Levels) (op : LineOp) :
    (l.apply op).data = if op = .d0 then false else if op = .d1 then true else l.data := by
  cases op <;> rfl

theorem Levels.apply_clock (l : Levels) (op : LineOp) :
    (l.apply op).clock = if op = .cl then false else if op = .ch then true else l.clock := by
  cases op <;> rfl

/-! ## What a cycle leaves unchanged, and the exit latch -/

theorem CycleEffect.inputs_eq {p : Pins} {s t : State} (h : CycleEffect p s t) : t.inputs = s.inputs := by
  cases h with
  | word _ _ _ _ _ _ heff => exact heff.inputs_eq
  | tx => simp
  | _ => rfl

/-- R24, R58: an Idle cycle without reset drives no line. -/
theorem CycleEffect.sameLines_of_idle {p : Pins} {s t : State} (h : CycleEffect p s t) (hrst : p.rst = false)
    (hst : s.st = .idle) : SameLines s t := by
  cases h with
  | reset h => simp [hrst] at h
  | tx _ _ h => simp [hst] at h
  | word _ _ _ _ _ _ heff => exact heff.sameLines
  | _ => constructor <;> simp

/-- A high `exit_req` sets EXITP, unless the block is frozen: then EXITP is unchanged (R171). -/
theorem CycleEffect.exitp_of_request {p : Pins} {s t : State} (h : CycleEffect p s t) (hrst : p.rst = false)
    (hreq : p.exitReq = true) : t.exitp = if s.frozen then s.exitp else true := by
  cases h with
  | reset h => simp [hrst] at h
  | frozen _ hfr => simp [hfr]
  | tx _ hfr => simp [hfr, hreq]
  | latch _ hfr | finalClear _ hfr | halt _ hfr => simp [hfr]
  | word _ _ _ _ h | quiet _ _ _ _ h => simp [hreq] at h

/-! ## Acceptance -/

theorem State.busy_eq_false (s : State) : s.busy = false ↔ s.st = .idle := by
  cases h : s.st <;> simp [State.busy, Transport.bit, h]

/-- R40, R100. -/
theorem State.accepting_iff (s : State) :
    s.accepting = true ↔ s.st = .idle ∧ s.fault = .none ∧ s.halt = false ∧ s.exitp = false := by
  simp [State.accepting, s.busy_eq_false, s.frozen_eq_false, and_assoc]

theorem formatOfOp_of_reserved {op : OpByte} (h : op = 0x00#8 ∨ 0x09#8 ≤ op) : formatOfOp op = none := by
  revert op
  decide

theorem acceptWord_of_reserved {w : CmdWord} (h : formatOfOp (fieldOp w) = none) (s : State) :
    acceptWord w s = .next (s.raise .illegalCommand ((fieldOp w).setWidth 32)) := by
  obtain ⟨i, -, -, hformat⟩ | ⟨hdecode, -⟩ := decode_cases w
  · simp [h] at hformat
  · simp [acceptWord, hdecode]

theorem acceptWord_of_decode {w : CmdWord} {i : Instr} (h : decode w = .ok i) (s : State) :
    acceptWord w s = exec i s := by
  simp [acceptWord, h]

/-- An accepting block takes the word presented, when neither reset nor an exit is requested (R100, R192). -/
theorem cycle_of_accepting {p : Pins} {s : State} (hacc : s.accepting = true) (hrst : p.rst = false)
    (hreq : p.exitReq = false) (hvalid : p.cmdValid = true) : cycle p s = acceptWord p.cmd s := by
  simp only [State.accepting, Bool.and_eq_true, Bool.not_eq_true'] at hacc
  obtain ⟨⟨hbusy, hfr⟩, hexit⟩ := hacc
  simp [cycle, hrst, hfr, hbusy, hexit, hreq, hvalid]

end Sys2Proof.Machine
end

section
/-! PROOFS. The invariants of 10_state.md R41: reset meets them and every effect of a cycle keeps them. -/

namespace Sys2Proof.Machine

/-! ## Reset and the invariants -/

theorem State.resetTo_registersOk (c : Bool) (s : State) : (s.resetTo c).RegistersOk := by
  cases c <;> constructor <;> simp [FaultCode.infoOk]

theorem State.resetTo_exitOk (c : Bool) (s : State) : (s.resetTo c).ExitOk := by
  constructor <;> simp

theorem State.resetTo_wireOk (c : Bool) (s : State) : (s.resetTo c).WireOk := by
  constructor <;> simp [Levels.after, Levels.low]

/-! ## The line invariant -/

/-- In Idle nothing of a frame has been sent, so the line invariant depends on neither the buffer nor the draws. -/
theorem State.WireOk.of_sameLines {s t : State} (h : s.WireOk) (hst : s.st = .idle) (hsame : SameLines s t) :
    t.WireOk := by
  obtain ⟨hdata, hclock, htrace, hcommits, hpos⟩ := hsame
  obtain ⟨hlow, hclow, hpos0⟩ := h.idle hst
  have htpos : t.pos = 0 := by simpa [hpos0] using hpos
  constructor
  · rw [htrace, hdata, hclock, h.levels]
  · exact fun _ => ⟨hdata.trans hlow, hclock.trans hclow, htpos⟩
  · rw [htrace, hcommits, h.length, htpos, hpos0]
  · rw [htrace, hcommits, h.sent, htpos, hpos0]
    rfl

/-- After the transmitter step the trace ends in one more operation of the frame (R142). -/
theorem State.WireOk.tx_sent {s : State} (h : s.WireOk) :
    s.tx.trace.drop (Config.opsPerCommit * s.commits) = (frame s.draw s.pb).take (s.pos.val + 1) := by
  have hlen : Config.opsPerCommit * s.commits ≤ s.trace.length := h.length ▸ Nat.le_add_right _ _
  rw [State.tx_trace, List.drop_append_of_le_length hlen, h.sent]
  exact List.take_concat_get' _ _ _

theorem State.WireOk.tx_levels {s : State} (h : s.WireOk) :
    Levels.after .low s.tx.trace = ⟨s.tx.data, s.tx.clock⟩ := by
  rw [State.tx_trace, Levels.after_append, h.levels, State.tx_data, State.tx_clock]
  rfl

/-- The last operation of a commit leaves both lines low (R155), since a whole frame does. -/
theorem State.WireOk.tx_low_of_last {s : State} (h : s.WireOk) (hpos : s.pos.val = 905) :
    s.tx.data = false ∧ s.tx.clock = false := by
  have hframe : s.tx.trace.drop (Config.opsPerCommit * s.commits) = frame s.draw s.pb := by
    rw [h.tx_sent, hpos, List.take_of_length_le (by rw [length_frame])]
  have hlow : Levels.after .low s.tx.trace = .low := by
    rw [← List.take_append_drop (Config.opsPerCommit * s.commits) s.tx.trace, hframe, Levels.after_append,
      Levels.after_frame]
  have hlines : (⟨s.tx.data, s.tx.clock⟩ : Levels) = .low := h.tx_levels.symm.trans hlow
  exact ⟨congrArg Levels.data hlines, congrArg Levels.clock hlines⟩

theorem State.WireOk.tx {s : State} (h : s.WireOk) (hst : s.st = .transmitting) : s.tx.WireOk := by
  have hlength : s.tx.trace.length = Config.opsPerCommit * s.commits + (s.pos.val + 1) := by
    simp [h.length, Nat.add_assoc]
  obtain hlt | hlast : s.pos.val < 905 ∨ s.pos.val = 905 := Nat.lt_or_eq_of_le (Nat.le_of_lt_succ s.pos.isLt)
  · obtain ⟨hpos', hst', hcommits⟩ := State.tx_of_lt hlt
    constructor
    · exact h.tx_levels
    · simp [hst', hst]
    · rw [hcommits, hpos', hlength]
    · simpa [hcommits, hpos', State.draw] using h.tx_sent
  · obtain ⟨hpos', hst', hcommits⟩ := State.tx_of_last hlast
    have hwhole : s.tx.trace.length = Config.opsPerCommit * s.tx.commits := by
      rw [hlength, hcommits, hlast, Nat.mul_succ]
    obtain ⟨hdata, hclock⟩ := h.tx_low_of_last hlast
    constructor
    · exact h.tx_levels
    · exact fun _ => ⟨hdata, hclock, hpos'⟩
    · rw [hwhole, hpos']
      rfl
    · rw [List.drop_eq_nil_of_le hwhole.le, hpos']
      rfl

theorem State.WireOk.latchExit {s : State} (h : s.WireOk) (e : Bool) : (s.latchExit e).WireOk :=
  ⟨h.levels, h.idle, h.length, h.sent⟩

theorem State.WireOk.sampled {s : State} (h : s.WireOk) : s.sampled.WireOk :=
  ⟨h.levels, h.idle, h.length, h.sent⟩

theorem CycleEffect.wireOk {p : Pins} {s t : State} (heff : CycleEffect p s t) (h : s.WireOk) : t.WireOk := by
  have idle (hrst : p.rst = false) (hst : s.st = .idle) : t.WireOk :=
    h.of_sameLines hst (heff.sameLines_of_idle hrst hst)
  cases heff with
  | reset => exact State.resetTo_wireOk _ _
  | frozen => exact h
  | tx _ _ hst => exact (h.tx hst).latchExit _
  | latch hrst _ hst | finalClear hrst _ hst | halt hrst _ hst | word hrst _ hst | quiet hrst _ hst =>
    exact idle hrst hst

/-! ## The register invariant -/

theorem State.RegistersOk.sampled {s : State} (h : s.RegistersOk) : s.sampled.RegistersOk :=
  ⟨h.idleLow, h.txLive, h.neverStarted, h.haltIdle, h.finalPending, h.traceLength, h.faultInfo⟩

/-- What is left of the register invariant for a block without a fault, once the line invariant is known. -/
theorem State.WireOk.registersOk_of_noFault {t : State} (hwire : t.WireOk) (hfault : t.fault = .none)
    (hinfo : t.finfo = 0#32) (hhalt : t.halt = true → t.st = .idle ∧ t.exitp = true)
    (hfinal : t.finalSent = true → t.exitp = true ∧ t.coe = true) : t.RegistersOk where
  idleLow := hwire.idle
  txLive hst := ⟨hfault, Bool.eq_false_iff.mpr fun hh => absurd (hhalt hh).1 (by simp [hst])⟩
  neverStarted h := by simp [hfault] at h
  haltIdle := hhalt
  finalPending := hfinal
  traceLength := hwire.length
  faultInfo := by simp [hfault, hinfo, FaultCode.infoOk]

/-- FINFO is 0 beside FAULT none (R29). -/
theorem State.RegistersOk.finfo_of_noFault {s : State} (h : s.RegistersOk) (hfault : s.fault = .none) :
    s.finfo = 0#32 := by
  simpa [hfault, FaultCode.infoOk] using h.faultInfo

/-- With no exit pending the final clear has not been started (R41 (e)). -/
theorem State.RegistersOk.finalSent_of_notPending {s : State} (h : s.RegistersOk) (hexit : s.exitp = false) :
    s.finalSent = false := by
  cases hfinal : s.finalSent with
  | false => rfl
  | true => exact absurd (h.finalPending hfinal).1 (by simp [hexit])

/-- An accepted word keeps the register invariant: it leaves a live block live, or faults it in Idle. -/
theorem WordEffect.registersOk {s t : State} (heff : WordEffect s t) (h : s.RegistersOk) (hfr : s.frozen = false)
    (hst : s.st = .idle) (hexit : s.exitp = false) (hwire : t.WireOk) : t.RegistersOk := by
  obtain ⟨hfault, hhalt⟩ := s.frozen_eq_false.mp hfr
  obtain ⟨hhalt', -, hfinal'⟩ := heff.exit_eq
  have notHalted : t.halt = false := hhalt'.trans hhalt
  have notFinal : t.finalSent = false := hfinal'.trans (h.finalSent_of_notPending hexit)
  obtain ⟨hfault', hinfo'⟩ | ⟨hst', hcode, hinfo⟩ := heff.fault_cases
  · exact hwire.registersOk_of_noFault (hfault'.trans hfault) (hinfo'.trans (h.finfo_of_noFault hfault))
      (by simp [notHalted]) (by simp [notFinal])
  · constructor
    case idleLow => exact hwire.idle
    case txLive => simp [hst', hst]
    case neverStarted => obtain h | h := hcode <;> simp [h]
    case haltIdle => simp [notHalted]
    case finalPending => simp [notFinal]
    case traceLength => exact hwire.length
    case faultInfo => exact hinfo

theorem CycleEffect.registersOk {p : Pins} {s t : State} (heff : CycleEffect p s t) (h : s.RegistersOk)
    (hwire : t.WireOk) : t.RegistersOk := by
  have live (hfr : s.frozen = false) : s.fault = .none ∧ s.finfo = 0#32 ∧ s.halt = false := by
    obtain ⟨hfault, hhalt⟩ := s.frozen_eq_false.mp hfr
    exact ⟨hfault, h.finfo_of_noFault hfault, hhalt⟩
  cases heff with
  | reset => exact State.resetTo_registersOk _ _
  | frozen => exact h
  | quiet => exact h
  | word _ hfr hst hexit _ _ heff => exact heff.registersOk h hfr hst hexit hwire
  | tx _ hfr =>
    obtain ⟨hfault, hinfo, hhalt⟩ := live hfr
    refine hwire.registersOk_of_noFault (by simp [hfault]) (by simp [hinfo]) (by simp [hhalt]) fun hfinal => ?_
    simp [h.finalPending (by simpa using hfinal)]
  | latch _ hfr =>
    obtain ⟨hfault, hinfo, hhalt⟩ := live hfr
    exact hwire.registersOk_of_noFault hfault hinfo (by simp [hhalt]) fun hfinal => ⟨rfl, (h.finalPending hfinal).2⟩
  | finalClear _ hfr _ _ hcoe =>
    obtain ⟨hfault, hinfo, hhalt⟩ := live hfr
    exact hwire.registersOk_of_noFault hfault hinfo (by simp [hhalt]) fun _ => ⟨rfl, hcoe⟩
  | halt _ hfr hst =>
    obtain ⟨hfault, hinfo, -⟩ := live hfr
    exact hwire.registersOk_of_noFault hfault hinfo (fun _ => ⟨hst, rfl⟩)
      fun hfinal => ⟨rfl, (h.finalPending hfinal).2⟩

end Sys2Proof.Machine
end

section
/-! PROOFS. The statements of the family 10_state.md. -/

namespace Sys2Proof.Machine

/-- Settles O52, by the effects of a cycle: the transmitter step sends the next operation of the frame, and no other
cycle but reset touches what the invariant speaks of. -/
theorem wireInvariantKept : Obligations.WireInvariantKept := by
  intro s t h hstep
  exact (step_effect hstep).wireOk h.sampled

/-- Settles O53, by the effects of a cycle; the lines and the trace come from O52. -/
theorem registersInvariantKept : Obligations.RegistersInvariantKept := by
  intro s t h hwire hstep
  exact (step_effect hstep).registersOk h.sampled (wireInvariantKept s t hwire hstep)

/-- Settles O18: `cycle_effect` names the next state, and no effect of a cycle touches the samples to come. -/
theorem stepAlwaysAnswersNext : Obligations.StepAlwaysAnswersNext := by
  intro s
  obtain ⟨t, hstep, heff⟩ := cycle_effect s.pins s.sampled
  exact ⟨t, hstep, heff.inputs_eq⟩

/-- Settles O22, by the effects of a cycle: only a word of a block that is not frozen writes FAULT, and none of the
other registers is ever written with 0. -/
theorem stickyRegistersOnlyResetClears : Obligations.StickyRegistersOnlyResetClears := by
  intro s t hrst hstep
  have live (h : s.sampled.frozen = false) : s.fault = .none := (s.sampled.frozen_eq_false.mp h).1
  cases step_effect hstep with
  | reset h => simp [hrst] at h
  | word _ hfr _ _ _ _ heff =>
    obtain ⟨hhalt, hexit, hfinal⟩ := heff.exit_eq
    simp [live hfr, hhalt, hexit, hfinal]
  | _ => simp +contextual

/-- Settles O23: such a cycle is `State.tx` with the exit latch (`step_of_transmitting`), told field by field. -/
theorem txPerformsOneLineOperation : Obligations.TxPerformsOneLineOperation := by
  intro s hst hfr hrst
  refine ⟨_, frameOp s.draw s.pb s.pos, step_of_transmitting hst hfr hrst, ?_, ?_, ?_, ?_, ?_, ?_, ?_, ?_⟩
  · exact List.getElem?_eq_getElem _
  · simp [State.draw]
  · exact (State.tx_data _).trans (Levels.apply_data _ _)
  · exact (State.tx_clock _).trans (Levels.apply_clock _ _)
  · intro hpos
    obtain ⟨hpos', hst', hcommits⟩ := State.tx_of_last (s := s.sampled) hpos
    simp [hpos', hst', hcommits]
  · intro hpos
    obtain ⟨hpos', hst', hcommits⟩ := State.tx_of_lt (s := s.sampled) hpos
    simp [hpos', hst', hcommits, hst]
  · simp
  · ext <;> simp

/-- Settles O24, by `CycleEffect.exitp_of_request`; with EXITP set no pins make the block ready. -/
theorem exitRequestIsLatched : Obligations.ExitRequestIsLatched := by
  intro s t hrst hreq hstep
  have hexit : t.exitp = if s.frozen then s.exitp else true := (step_effect hstep).exitp_of_request hrst hreq
  refine ⟨by simp [State.cmdReady, hreq], fun hfr => ?_, fun hfr => by simpa [hfr] using hexit⟩
  have hset : t.exitp = true := by simpa [hfr] using hexit
  exact ⟨hset, fun p => by simp [State.cmdReady, State.accepting, hset]⟩

/-- Settles O27, by `CycleEffect.sameLines_of_idle`. -/
theorem onlyTheTransmitterDrivesTheLines : Obligations.OnlyTheTransmitterDrivesTheLines := by
  intro s t hst hrst hstep
  have hsame := (step_effect hstep).sameLines_of_idle hrst hst
  exact ⟨hsame.data, hsame.clock, hsame.trace⟩

/-- Settles O17: on an accepting block with such pins the cycle is `acceptWord`, whose two cases are cited. -/
theorem stepRunsTheAcceptedCommand : Obligations.StepRunsTheAcceptedCommand := by
  intro s c w rest hacc hin
  have hstep : step s = acceptWord w { s with inputs := rest } := by
    have hs : s.sampled = { s with inputs := rest } := by simp [State.sampled, hin]
    have hpins : s.pins = ⟨false, c, true, w, false⟩ := by simp [State.pins, hin]
    rw [step, hpins, hs]
    exact cycle_of_accepting hacc rfl rfl rfl
  refine ⟨hstep, fun i hi => hstep.trans (acceptWord_of_decode hi _), fun hop => ?_⟩
  exact hstep.trans (acceptWord_of_reserved (formatOfOp_of_reserved hop) _)

/-- Settles O20, by the fields of `State.resetTo`. -/
theorem resetSetsEveryRegister : Obligations.ResetSetsEveryRegister := by
  intro s p rest hin hrst
  have hpins : s.pins = p := by simp [State.pins, hin]
  refine ⟨s.sampled.resetTo p.cfgOk, by simp [step, cycle, hpins, hrst], ?_⟩
  simp [Buffer.zero, Pixel.zero, State.rdv, hin]

/-- Settles O28, output by output. -/
theorem statusView : Obligations.StatusView := by
  intro s p
  refine ⟨?_, ?_, rfl, rfl, ?_⟩
  · cases h : s.st <;> simp [State.outputs, State.busy, Transport.bit, h]
  · cases h : s.fault <;> simp [State.outputs, FaultCode.bits, h]
  · simp [State.outputs, State.cmdReady, s.accepting_iff, and_assoc]

/-- Settles O29, bit by bit. -/
theorem readDataLayout : Obligations.ReadDataLayout := by
  intro p
  unfold Pixel.bits
  refine ⟨?_, ?_, ?_, ?_⟩
  all_goals
    ext k hk
    simp only [BitVec.getElem_extractLsb', BitVec.getLsbD_append]
    grind

/-- Settles O51: `State.reset` is itself what a reset with `cfg_ok` = 1 leaves. -/
theorem resetMeetsTheInvariants : Obligations.ResetMeetsTheInvariants := by
  intro s c
  have hreset : State.reset = State.reset.resetTo true := rfl
  rw [hreset]
  exact ⟨⟨State.resetTo_registersOk _ _, State.resetTo_exitOk _ _, State.resetTo_wireOk _ _⟩,
    State.resetTo_registersOk _ _, State.resetTo_exitOk _ _, State.resetTo_wireOk _ _⟩

end Sys2Proof.Machine
end

section
/-! PROOFS. The statements of the family 20_memory.md: what an indexed access can do, what a command makes of the
buffer, and what no command touches. -/

namespace Sys2Proof.Machine

/-! ## The indexed commands as accesses of one pixel (R51 to R53) -/

theorem exec_setpixel (idx : Index) (r g b : Colour) (br : Brightness) (s : State) :
    exec (.setpixel idx r g b br) s = withPixel idx s fun k => s.writePixel k .whole ⟨r, g, b, br⟩ := rfl

theorem exec_setcolor (idx : Index) (r g b : Colour) (s : State) :
    exec (.setcolor idx r g b) s = withPixel idx s fun k => s.writePixel k .colour ⟨r, g, b, 0#64⟩ := rfl

theorem exec_setbright (idx : Index) (br : Brightness) (s : State) :
    exec (.setbright idx br) s = withPixel idx s fun k => s.writePixel k .brightness ⟨0#32, 0#32, 0#32, br⟩ := rfl

theorem exec_setall (r g b : Colour) (br : Brightness) (s : State) :
    exec (.setall r g b br) s = .next (s.fillPixels ⟨r, g, b, br⟩) := rfl

theorem exec_read (idx : Index) (s : State) :
    exec (.read idx) s = withPixel idx s fun k => { s with rdata := .valid s.pb[k] } := rfl

/-! ## The index test -/

/-- `withPixel_cases` for an access whose next state is known. -/
theorem withPixel_next {idx : Index} {s t : State} {access : Fin Config.nPix → State}
    (h : withPixel idx s access = .next t) :
    (∃ k, pixelIndex idx = some k ∧ t = access k) ∨ (pixelIndex idx = none ∧ t = s.raise .indexOutOfRange idx) := by
  obtain ⟨k, hk, hacc⟩ | ⟨hnone, hraise⟩ := withPixel_cases idx s access
  · cases hacc.symm.trans h
    exact .inl ⟨k, hk, rfl⟩
  · cases hraise.symm.trans h
    exact .inr ⟨hnone, rfl⟩

/-- A negative operand is 2^31 or more when read unsigned, so the unsigned test refuses it as well (R51, D10). -/
theorem pixelIndex_eq_none_iff_toNat {idx : Index} : pixelIndex idx = none ↔ 7 < idx.toNat := by
  rw [pixelIndex_eq_none_iff, BitVec.toInt_eq_toNat_cond]
  have hlt := idx.isLt
  split <;> omega

theorem withPixel_fault_iff {idx : Index} {s t : State} {access : Fin Config.nPix → State} (hs : s.fault = .none)
    (h : withPixel idx s access = .next t) (haccess : ∀ k, (access k).fault = s.fault) :
    t.fault = .indexOutOfRange ↔ 7 < idx.toNat := by
  rw [← pixelIndex_eq_none_iff_toNat]
  obtain ⟨k, hk, rfl⟩ | ⟨hnone, rfl⟩ := withPixel_next h
  · simp [hk, haccess, hs]
  · simp [hnone]

/-- Settles O14: each indexed command is a `withPixel` whose access leaves FAULT alone. -/
theorem indexTestIsTheUnsignedOne : Obligations.IndexTestIsTheUnsignedOne := by
  rintro s t idx i hs (rfl | ⟨br, rfl⟩ | ⟨r, g, b, rfl⟩ | ⟨r, g, b, br, rfl⟩) h
  · exact withPixel_fault_iff hs ((exec_read ..).symm.trans h) fun _ => rfl
  · exact withPixel_fault_iff hs ((exec_setbright ..).symm.trans h) fun _ => rfl
  · exact withPixel_fault_iff hs ((exec_setcolor ..).symm.trans h) fun _ => rfl
  · exact withPixel_fault_iff hs ((exec_setpixel ..).symm.trans h) fun _ => rfl

/-! ## What READ returns (R52, R60) -/

theorem exec_read_of_toInt {idx : Index} {i : Fin Config.nPix} (h : idx.toInt = i.val) (s : State) :
    exec (.read idx) s = .next { s with rdata := .valid s.pb[i] } :=
  (exec_read idx s).trans (withPixel_of_toInt h s _)

/-- READ of the entry just written returns its old record with the written fields replaced. -/
theorem exec_read_after_write {idx : Index} {i : Fin Config.nPix} (h : idx.toInt = i.val) (f : FieldSet) (v : Pixel)
    (s : State) : ∃ t u, (withPixel idx s fun k => s.writePixel k f v) = .next t ∧ exec (.read idx) t = .next u ∧
      u.rdata = .valid (f.write v s.pb[i]) := by
  refine ⟨_, _, withPixel_of_toInt h s _, exec_read_of_toInt h _, ?_⟩
  simp only [State.writePixel_read, if_true]

/-- Settles O15: the mutators with an index are writes of one entry, SETALL fills every entry. -/
theorem readAfterEachMutator : Obligations.ReadAfterEachMutator := by
  intro s idx i r g b br h
  rw [exec_setcolor, exec_setbright, exec_setpixel]
  refine ⟨?colour, ?brightness, ?whole, ?all⟩
  case colour => exact exec_read_after_write h .colour _ s
  case brightness => exact exec_read_after_write h .brightness _ s
  case whole => exact exec_read_after_write h .whole _ s
  case all =>
    refine ⟨_, _, exec_setall r g b br s, exec_read_of_toInt h _, ?_⟩
    exact congrArg ReadData.valid (State.fillPixels_read i _ s)

/-! ## What no command touches (R58, R100) -/

/-- Settles O16, command by command: a write or a read of one pixel and the fault of a bad index touch none of these
registers (`withPixel_next`), and the other commands name their next state. -/
theorem commandsLeaveTheLinesAlone : Obligations.CommandsLeaveTheLinesAlone := by
  intro i s t h
  cases i with
  | setpixel | setcolor | setbright | read => obtain ⟨k, -, rfl⟩ | ⟨-, rfl⟩ := withPixel_next h <;> simp
  | setall | showFrame | clear | setcoe => cases h; simp [Instr.format]

end Sys2Proof.Machine
end

section
/-! PROOFS. The statements about the command word of the family 30_encoding.md: the fields of a word, decoding and encoding
command by command, and the bits a format does not use. -/

namespace Sys2Proof.Machine

/-! ## The fields of a word (R71) -/

/-- A word is determined by its six fields. -/
theorem wordOf_eq_iff {op : OpByte} {idx : Index} {r g b : Colour} {br : Brightness} {w : CmdWord} :
    wordOf op idx r g b br = w ↔ fieldOp w = op ∧ fieldIdx w = idx ∧ fieldR w = r ∧ fieldG w = g ∧ fieldB w = b ∧
      fieldBr w = br := by
  constructor
  · rintro rfl
    exact fields_wordOf ..
  · rintro ⟨rfl, rfl, rfl, rfl, rfl, rfl⟩
    exact wordOf_fields w

theorem getLsbD_wordOf (op : OpByte) (idx : Index) (r g b : Colour) (br : Brightness) (k : Nat) :
    (wordOf op idx r g b br).getLsbD k =
      if k < 64 then br.getLsbD k else if k < 96 then b.getLsbD (k - 64) else if k < 128 then g.getLsbD (k - 96)
      else if k < 160 then r.getLsbD (k - 128) else if k < 192 then idx.getLsbD (k - 160)
      else op.getLsbD (k - 192) := by
  simp only [wordOf, BitVec.getLsbD_append]
  grind

/-- `en` is the lowest bit of the index field (R76). -/
theorem fieldEn_eq (w : CmdWord) : fieldEn w = (fieldIdx w).getLsbD 0 := by
  simp [fieldEn, fieldIdx]

/-! ## Decoding, one equation per op byte (R72) -/

theorem decode_setpixel {w : CmdWord} (h : fieldOp w = 0x01#8) :
    decode w = .ok (.setpixel (fieldIdx w) (fieldR w) (fieldG w) (fieldB w) (fieldBr w)) := by simp [decode, h]

theorem decode_setcolor {w : CmdWord} (h : fieldOp w = 0x02#8) :
    decode w = .ok (.setcolor (fieldIdx w) (fieldR w) (fieldG w) (fieldB w)) := by simp [decode, h]

theorem decode_setbright {w : CmdWord} (h : fieldOp w = 0x03#8) :
    decode w = .ok (.setbright (fieldIdx w) (fieldBr w)) := by simp [decode, h]

theorem decode_setall {w : CmdWord} (h : fieldOp w = 0x04#8) :
    decode w = .ok (.setall (fieldR w) (fieldG w) (fieldB w) (fieldBr w)) := by simp [decode, h]

theorem decode_read {w : CmdWord} (h : fieldOp w = 0x05#8) : decode w = .ok (.read (fieldIdx w)) := by
  simp [decode, h]

theorem decode_showFrame {w : CmdWord} (h : fieldOp w = 0x06#8) : decode w = .ok .showFrame := by simp [decode, h]

theorem decode_clear {w : CmdWord} (h : fieldOp w = 0x07#8) : decode w = .ok .clear := by simp [decode, h]

theorem decode_setcoe {w : CmdWord} (h : fieldOp w = 0x08#8) : decode w = .ok (.setcoe (fieldEn w)) := by
  simp [decode, h]

theorem op_of_decode {w : CmdWord} {i : Instr} (h : decode w = .ok i) :
    fieldOp w = i.op ∧ formatOfOp (fieldOp w) = some i.format := by
  obtain ⟨j, hj, hop, hformat⟩ | ⟨herror, -⟩ := decode_cases w
  · cases hj.symm.trans h
    exact ⟨hop.symm, hformat⟩
  · cases herror.symm.trans h

/-- Settles O1, command by command: the fields of the encoder's word are the operands, and the op byte selects the
command that takes them. -/
theorem decodeOfEncode : Obligations.DecodeOfEncode := by
  intro i
  cases i with
  | setpixel idx r g b br =>
    obtain ⟨hop, hidx, hr, hg, hb, hbr⟩ := wordOf_eq_iff.mp (rfl : encode (.setpixel idx r g b br) = _)
    rw [decode_setpixel hop, hidx, hr, hg, hb, hbr]
  | setcolor idx r g b =>
    obtain ⟨hop, hidx, hr, hg, hb, -⟩ := wordOf_eq_iff.mp (rfl : encode (.setcolor idx r g b) = _)
    rw [decode_setcolor hop, hidx, hr, hg, hb]
  | setbright idx br =>
    obtain ⟨hop, hidx, -, -, -, hbr⟩ := wordOf_eq_iff.mp (rfl : encode (.setbright idx br) = _)
    rw [decode_setbright hop, hidx, hbr]
  | setall r g b br =>
    obtain ⟨hop, -, hr, hg, hb, hbr⟩ := wordOf_eq_iff.mp (rfl : encode (.setall r g b br) = _)
    rw [decode_setall hop, hr, hg, hb, hbr]
  | read idx =>
    obtain ⟨hop, hidx, -⟩ := wordOf_eq_iff.mp (rfl : encode (.read idx) = _)
    rw [decode_read hop, hidx]
  | showFrame =>
    obtain ⟨hop, -⟩ := Laws.OpByte.showFrame
    exact decode_showFrame hop
  | clear =>
    obtain ⟨hop, -⟩ := Laws.OpByte.clear
    exact decode_clear hop
  | setcoe en =>
    obtain ⟨hop, hidx, -⟩ := wordOf_eq_iff.mp (rfl : encode (.setcoe en) = _)
    rw [decode_setcoe hop, fieldEn_eq, hidx]
    cases en <;> rfl

theorem decode_of_encode_eq {i : Instr} {w : CmdWord} (h : encode i = w) : decode w = .ok i := h ▸ decodeOfEncode i

/-! ## Zeros in the unused fields (R77) -/

theorem extractLsb'_eq_zero {w : CmdWord} {a n : Nat} (h : ∀ k, a ≤ k → k < a + n → w.getLsbD k = false) :
    w.extractLsb' a n = 0 := by
  ext k hk
  simp [h (a + k) (by omega) (by omega)]

theorem extractLsb'_eq_zero_of_subrange {w : CmdWord} {a n b m : Nat} (h : w.extractLsb' a n = 0) (hab : a ≤ b)
    (hle : b + m ≤ a + n) : w.extractLsb' b m = 0 := by
  refine extractLsb'_eq_zero fun k hlow hhigh => ?_
  have hbit := congrArg (fun v => v.getLsbD (k - a)) h
  simpa [BitVec.getLsbD_extractLsb', show k - a < n by omega, show a + (k - a) = k by omega] using hbit

theorem colours_eq_zero {w : CmdWord} {a n : Nat} (h : w.extractLsb' a n = 0) (ha : a ≤ 64) (hn : 160 ≤ a + n) :
    fieldR w = 0 ∧ fieldG w = 0 ∧ fieldB w = 0 :=
  ⟨extractLsb'_eq_zero_of_subrange h (by omega) (by omega), extractLsb'_eq_zero_of_subrange h (by omega) (by omega),
    extractLsb'_eq_zero_of_subrange h (by omega) (by omega)⟩

/-- With the bits above it zero, `en` is the whole index field (R76). -/
theorem fieldIdx_eq_fieldEn {w : CmdWord} (h : w.extractLsb' 161 31 = 0) :
    fieldIdx w = if fieldEn w then 1#32 else 0#32 := by
  have hbit (k : Nat) (hk : k < 31) : w.getLsbD (161 + k) = false := by
    simpa [BitVec.getLsbD_extractLsb', hk] using congrArg (fun v => v.getLsbD k) h
  ext k hk
  rcases k with _ | k
  · cases hen : fieldEn w <;> simpa [fieldEn, fieldIdx] using hen
  · have hzero : (fieldIdx w)[k + 1] = false := by
      simpa [fieldIdx, show 160 + (k + 1) = 161 + k by omega] using hbit k (by omega)
    cases fieldEn w <;> simp [hzero]

theorem unused_zero_of_canonicalWord {w : CmdWord} {f : Format} (hformat : formatOfOp (fieldOp w) = some f)
    (h : canonicalWord w = true) : ∀ range ∈ f.ignored, w.extractLsb' range.1 range.2 = 0 := by
  simpa [canonicalWord, hformat] using h

/-- Settles O2, command by command: the fields the command takes are the word's own, and the others are zero in both. -/
theorem encodeOfCanonicalWord : Obligations.EncodeOfCanonicalWord := by
  intro w i hcanon hdecode
  obtain ⟨hop, hformat⟩ := op_of_decode hdecode
  have unused := unused_zero_of_canonicalWord hformat hcanon
  cases i with
  | setpixel =>
    cases (decode_setpixel hop).symm.trans hdecode
    exact wordOf_eq_iff.mpr ⟨hop, rfl, rfl, rfl, rfl, rfl⟩
  | setcolor =>
    cases (decode_setcolor hop).symm.trans hdecode
    exact wordOf_eq_iff.mpr ⟨hop, rfl, rfl, rfl, rfl, unused _ (.head _)⟩
  | setbright =>
    cases (decode_setbright hop).symm.trans hdecode
    obtain ⟨hr, hg, hb⟩ := colours_eq_zero (unused _ (.head _)) (by decide) (by decide)
    exact wordOf_eq_iff.mpr ⟨hop, rfl, hr, hg, hb, rfl⟩
  | setall =>
    cases (decode_setall hop).symm.trans hdecode
    exact wordOf_eq_iff.mpr ⟨hop, unused _ (.head _), rfl, rfl, rfl, rfl⟩
  | read =>
    cases (decode_read hop).symm.trans hdecode
    have low := unused _ (.head _)
    obtain ⟨hr, hg, hb⟩ := colours_eq_zero low (by decide) (by decide)
    exact wordOf_eq_iff.mpr ⟨hop, rfl, hr, hg, hb, extractLsb'_eq_zero_of_subrange low (by decide) (by decide)⟩
  | showFrame | clear =>
    have low := unused _ (.head _)
    obtain ⟨hr, hg, hb⟩ := colours_eq_zero low (by decide) (by decide)
    exact wordOf_eq_iff.mpr ⟨hop, extractLsb'_eq_zero_of_subrange low (by decide) (by decide), hr, hg, hb,
      extractLsb'_eq_zero_of_subrange low (by decide) (by decide)⟩
  | setcoe =>
    cases (decode_setcoe hop).symm.trans hdecode
    have low := unused _ (.head _)
    obtain ⟨hr, hg, hb⟩ := colours_eq_zero low (by decide) (by decide)
    exact wordOf_eq_iff.mpr ⟨hop, fieldIdx_eq_fieldEn (unused _ (.tail _ (.head _))), hr, hg, hb,
      extractLsb'_eq_zero_of_subrange low (by decide) (by decide)⟩

/-! ## Unused fields are ignored (R77) -/

theorem encode_unused_zero (i : Instr) {range : Nat × Nat} (hmem : range ∈ i.format.ignored) :
    (encode i).extractLsb' range.1 range.2 = 0 := by
  refine extractLsb'_eq_zero fun k hlow hhigh => ?_
  cases i with
  | setpixel => cases hmem
  | setcolor | setbright | setall | read | showFrame | clear =>
    obtain rfl := List.mem_singleton.mp hmem
    simp only [encode, getLsbD_wordOf, BitVec.getLsbD_zero]
    grind
  | setcoe en =>
    obtain rfl | hmem := List.mem_cons.mp hmem
    · simp only [encode, getLsbD_wordOf, BitVec.getLsbD_zero]
      grind
    · obtain rfl := List.mem_singleton.mp hmem
      simp only [encode, getLsbD_wordOf, BitVec.getLsbD_zero]
      cases en <;> grind

/-- The two words agree on every bit that the format uses. -/
def AgreeOnUsed (f : Format) (w w' : CmdWord) : Prop :=
  ∀ k, k < 200 → (∀ range ∈ f.ignored, k < range.1 ∨ range.1 + range.2 ≤ k) → w.getLsbD k = w'.getLsbD k

theorem AgreeOnUsed.extract_eq {f : Format} {w w' : CmdWord} (h : AgreeOnUsed f w w') (a n : Nat) (hn : a + n ≤ 200)
    (hused : ∀ range ∈ f.ignored, a + n ≤ range.1 ∨ range.1 + range.2 ≤ a) :
    w.extractLsb' a n = w'.extractLsb' a n := by
  ext k hk
  simp only [BitVec.getElem_extractLsb']
  refine h (a + k) (by omega) fun range hmem => ?_
  have := hused range hmem
  omega

/-- Every format uses the op byte. -/
theorem AgreeOnUsed.fieldOp_eq {f : Format} {w w' : CmdWord} (h : AgreeOnUsed f w w') : fieldOp w = fieldOp w' :=
  h.extract_eq 192 8 (by decide) (by cases f <;> decide)

/-- A field is equal in both words when the format uses it, and a command takes only such fields. -/
theorem AgreeOnUsed.decode_eq {f : Format} {w w' : CmdWord} (h : AgreeOnUsed f w w')
    (hformat : formatOfOp (fieldOp w) = some f) : decode w = decode w' := by
  obtain ⟨i, -, hop, hi⟩ | ⟨-, hnone⟩ := decode_cases w
  · have hf : f = i.format := Option.some.inj (hformat.symm.trans hi)
    have hop' : i.op = fieldOp w' := hop.trans h.fieldOp_eq
    have idx : _ → fieldIdx w = fieldIdx w' := h.extract_eq 160 32 (by decide)
    have r : _ → fieldR w = fieldR w' := h.extract_eq 128 32 (by decide)
    have g : _ → fieldG w = fieldG w' := h.extract_eq 96 32 (by decide)
    have b : _ → fieldB w = fieldB w' := h.extract_eq 64 32 (by decide)
    have br : _ → fieldBr w = fieldBr w' := h.extract_eq 0 64 (by decide)
    cases i with
    | setpixel =>
      obtain rfl : f = .pixel := hf
      rw [decode_setpixel hop.symm, decode_setpixel hop'.symm, idx (by decide), r (by decide), g (by decide),
        b (by decide), br (by decide)]
    | setcolor =>
      obtain rfl : f = .colour := hf
      rw [decode_setcolor hop.symm, decode_setcolor hop'.symm, idx (by decide), r (by decide), g (by decide),
        b (by decide)]
    | setbright =>
      obtain rfl : f = .brightness := hf
      rw [decode_setbright hop.symm, decode_setbright hop'.symm, idx (by decide), br (by decide)]
    | setall =>
      obtain rfl : f = .all := hf
      rw [decode_setall hop.symm, decode_setall hop'.symm, r (by decide), g (by decide), b (by decide), br (by decide)]
    | read =>
      obtain rfl : f = .index := hf
      rw [decode_read hop.symm, decode_read hop'.symm, idx (by decide)]
    | showFrame => rw [decode_showFrame hop.symm, decode_showFrame hop'.symm]
    | clear => rw [decode_clear hop.symm, decode_clear hop'.symm]
    | setcoe =>
      obtain rfl : f = .enable := hf
      have en : fieldEn w = fieldEn w' := h 160 (by decide) (by decide)
      rw [decode_setcoe hop.symm, decode_setcoe hop'.symm, en]
  · cases hnone.symm.trans hformat

/-- Settles O3: `encode_unused_zero` is its half about the encoder, `AgreeOnUsed.decode_eq` the one about the decoder. -/
theorem unusedFieldsAreIgnored : Obligations.UnusedFieldsAreIgnored :=
  ⟨fun i _ => encode_unused_zero i, fun _ _ _ hformat h => AgreeOnUsed.decode_eq h hformat⟩

/-! ## Reserved ops (R78, R184) -/

theorem formatOfOp_ne_none_of_command {op : OpByte} (hlow : 0x01#8 ≤ op) (hhigh : op ≤ 0x08#8) :
    formatOfOp op ≠ none := by
  revert op
  decide

/-- Settles O4, by the two cases of `decode_cases`: a reserved op has no format, and each op from 0x01 to 0x08 has one. -/
theorem reservedOpRaisesIllegalCommand : Obligations.ReservedOpRaisesIllegalCommand := by
  intro w s
  refine ⟨fun hreserved => acceptWord_of_reserved (formatOfOp_of_reserved hreserved) s, fun hlow hhigh => ?_⟩
  obtain ⟨i, hdecode, -⟩ | ⟨-, hnone⟩ := decode_cases w
  · exact ⟨i, hdecode, acceptWord_of_decode hdecode s⟩
  · exact absurd hnone (formatOfOp_ne_none_of_command hlow hhigh)

/-! ## Words and lines of 95_test_vectors.md -/

/-- Settles O5: each of the eight words is the one its command encodes to, so O1 decodes it; the two reserved words are
refused by evaluation. -/
theorem wordsOfTheSpecDecode : Obligations.WordsOfTheSpecDecode := by
  refine ⟨?_, ?_, ?_, ?_, ?_, ?_, ?_, ?_, ?reserved_00, ?reserved_ff⟩
  case reserved_00 | reserved_ff => decide
  all_goals exact decode_of_encode_eq (by decide)

theorem assembleText_of_line {cs : List Char} (l : AsmLine) {w : CmdWord} (hparse : parseLine cs = some l)
    (hword : (assembleLine l).map encode = some w) : assembleText cs = some w := by
  rw [assembleText, hparse]
  exact hword

/-- Settles O55: each text is parsed to the line named here, and that line has the word printed beside it. -/
theorem programLinesAssemble : Obligations.ProgramLinesAssemble := by
  refine ⟨?setpixel, ?setcolor, ?setbright, ?setall, ?read, ?showFrame, ?clear, ?setcoe⟩
  case setpixel => exact assembleText_of_line (.setpixel 0 255 0 0 (.decimal false 5 1)) (by decide) (by decide)
  case setcolor => exact assembleText_of_line (.setcolor 3 300 (-1) 256) (by decide) (by decide)
  case setbright => exact assembleText_of_line (.setbright 3 (.decimal false 15 1)) (by decide) (by decide)
  case setall => exact assembleText_of_line (.setall 1 2 3 (.decimal false 25 2)) (by decide) (by decide)
  case read => exact assembleText_of_line (.read 2) (by decide) (by decide)
  case showFrame => exact assembleText_of_line .showFrame (by decide) (by decide)
  case clear => exact assembleText_of_line .clear (by decide) (by decide)
  case setcoe => exact assembleText_of_line (.setcoe 1) (by decide) (by decide)

end Sys2Proof.Machine
end

section
/-! PROOFS. A commit on the wire (family 30_encoding.md, O46): the wire bits of a frame, the run that sends the rest of a
frame, and the cycle that accepts SHOW or CLEAR. -/

namespace Sys2Proof.Machine

/-! ## The sampled bits of a frame are its wire bits (R83, R148) -/

/-- The 32 bits of pixel `i` on the wire, bit 31 first (R81). -/
def pixelBits (draw : Nat → BrCode) (pb : Buffer) (i : Nat) : List Bool :=
  (List.range 32).map fun n => (pixelWord (draw i) (pixelAt pb i)).getLsbD (31 - n)

theorem sampledFrom_pixelFrames (draw : Nat → BrCode) (pb : Buffer) (l : Levels) (h : l.clock = false) :
    sampledFrom l (pixelFrames draw pb) = (List.range 8).flatMap (pixelBits draw pb) := by
  have upTo (n : Nat) :
      (l.after ((List.range n).flatMap fun i => pixelFrame (draw i) (pixelAt pb i))).clock = false ∧
      sampledFrom l ((List.range n).flatMap fun i => pixelFrame (draw i) (pixelAt pb i)) =
        (List.range n).flatMap (pixelBits draw pb) := by
    induction n with
    | zero => exact ⟨h, rfl⟩
    | succ n ih =>
      obtain ⟨hclock, hbits⟩ := ih
      simp only [List.range_succ, List.flatMap_append, List.flatMap_singleton, Levels.after_append,
        sampledFrom_append, hbits, sampledFrom_pixelFrame _ _ _ hclock]
      exact ⟨Levels.after_pixelFrame_clock _ _ _ hclock, rfl⟩
  obtain ⟨-, hbits⟩ := upTo 8
  rwa [pixelFrames_range]

theorem wireBit_pixel (draw : Nat → BrCode) (pb : Buffer) {i n : Nat} (hi : i < 8) (hn : n < 32) :
    wireBit draw pb (32 + (32 * i + n)) = (pixelWord (draw i) (pixelAt pb i)).getLsbD (31 - n) := by
  unfold wireBit
  rw [if_neg (by omega), if_pos (by omega)]
  simp only [Nat.add_sub_cancel_left, show (32 * i + n) / 32 = i by omega, show (32 * i + n) % 32 = n by omega]

theorem wireBit_outside (draw : Nat → BrCode) (pb : Buffer) {n : Nat} (hn : n < 32 ∨ 288 ≤ n) :
    wireBit draw pb n = false := by
  unfold wireBit
  grind

theorem map_wireBit_outside (draw : Nat → BrCode) (pb : Buffer) {ns : List Nat} {len : Nat} (hlen : ns.length = len)
    (h : ∀ n ∈ ns, n < 32 ∨ 288 ≤ n) : ns.map (wireBit draw pb) = List.replicate len false :=
  hlen ▸ List.map_eq_replicate_iff.mpr fun n hn => wireBit_outside draw pb (h n hn)

/-- The first `len * n` numbers as `n` blocks of length `len`. -/
theorem map_range_mul {α : Type} (f : Nat → α) (len n : Nat) :
    (List.range (len * n)).map f = (List.range n).flatMap fun i => (List.range len).map fun j => f (len * i + j) := by
  induction n with
  | zero => rfl
  | succ n ih => simp [Nat.mul_succ, List.range_add, List.range_succ, ih, Function.comp_def]

/-- The wire bits of a commit: 32 zeros, the pixels, 36 zeros. -/
theorem wireBits_eq (draw : Nat → BrCode) (pb : Buffer) : wireBits draw pb =
    List.replicate 32 false ++ (List.range 8).flatMap (pixelBits draw pb) ++ List.replicate 36 false := by
  have places : List.range 324 =
      List.range 32 ++ (List.range (32 * 8)).map (32 + ·) ++ (List.range 36).map (288 + ·) := by
    rw [← List.range_add, ← List.range_add]
  have pixels : ((List.range (32 * 8)).map (32 + ·)).map (wireBit draw pb) =
      (List.range 8).flatMap (pixelBits draw pb) := by
    rw [List.map_map, map_range_mul]
    refine List.flatMap_congr fun i hi => List.map_congr_left fun n hn => ?_
    exact wireBit_pixel draw pb (List.mem_range.mp hi) (List.mem_range.mp hn)
  rw [wireBits, places, List.map_append, List.map_append, pixels,
    map_wireBit_outside draw pb List.length_range fun n hn => .inl (List.mem_range.mp hn),
    map_wireBit_outside draw pb (len := 36) (by simp) (by simp)]

theorem sampledFrom_frame (draw : Nat → BrCode) (pb : Buffer) (d : Bool) :
    sampledFrom ⟨d, false⟩ (frame draw pb) = wireBits draw pb := by
  have start : Levels.after ⟨d, false⟩ (resetFrame Config.startPulses) = ⟨false, false⟩ :=
    Levels.after_resetFrame _ _ rfl
  have pixels : (Levels.after ⟨false, false⟩ (pixelFrames draw pb)).clock = false :=
    Levels.after_pixelFrames_clock _ _ _ rfl
  rw [frame, List.append_assoc, sampledFrom_append, sampledFrom_resetFrame, start, sampledFrom_append,
    sampledFrom_pixelFrames _ _ _ rfl, Levels.eq_of_clock pixels, sampledFrom_resetFrame, wireBits_eq,
    List.append_assoc]
  rfl

/-! ## The rest of a transmission (R142, R143) -/

/-- In `n` cycles the rest of the frame under way in `s` has been sent, and nothing else has happened but the latching of
an exit request. -/
structure RestSent (n : Nat) (s t : State) : Prop where
  levels : Levels.after ⟨s.data, s.clock⟩ ((frame s.draw s.pb).drop s.pos.val) = ⟨t.data, t.clock⟩
  exitp : t.exitp = (s.exitp || (s.inputs.take n).any fun p => p.exitReq)
  state : t = { s with
    data := t.data, clock := t.clock, st := .idle, pos := 0, exitp := t.exitp, commits := s.commits + 1
    trace := s.trace ++ (frame s.draw s.pb).drop s.pos.val, inputs := s.inputs.drop n }

@[simp] theorem State.sampled_draw (s : State) : s.sampled.draw = s.draw := rfl
@[simp] theorem State.latchExit_draw (e : Bool) (s : State) : (s.latchExit e).draw = s.draw := rfl
@[simp] theorem State.tx_draw (s : State) : s.tx.draw = s.draw := by simp [State.draw]

theorem Levels.after_cons (l : Levels) (op : LineOp) (ops : List LineOp) :
    l.after (op :: ops) = (l.apply op).after ops := rfl

theorem drop_frame (draw : Nat → BrCode) (pb : Buffer) (pos : Fin Config.opsPerCommit) :
    (frame draw pb).drop pos.val = frameOp draw pb pos :: (frame draw pb).drop (pos.val + 1) :=
  List.drop_eq_getElem_cons _

theorem State.pins_exitReq_or (s : State) (n : Nat) :
    (s.pins.exitReq || (s.inputs.tail.take n).any fun p => p.exitReq) =
      (s.inputs.take (n + 1)).any fun p => p.exitReq := by
  unfold State.pins
  cases s.inputs <;> simp [Pins.quiet]

theorem restSent_of_last {s : State} (hlast : s.pos.val = 905) :
    RestSent 1 s (s.sampled.tx.latchExit s.pins.exitReq) := by
  obtain ⟨hpos, hst, hcommits⟩ := State.tx_of_last (s := s.sampled) hlast
  have hdrop : (frame s.draw s.pb).drop s.pos.val = [frameOp s.draw s.pb s.pos] := by
    rw [drop_frame, List.drop_eq_nil_of_le (by rw [length_frame, hlast])]
  constructor
  · simp [hdrop, Levels.after]
  · simpa using congrArg (s.exitp || ·) (s.pins_exitReq_or 0)
  · ext : 1 <;> simp [hdrop, hpos, hst, hcommits]

theorem RestSent.cons {n : Nat} {s t : State} (hlt : s.pos.val < 905)
    (h : RestSent n (s.sampled.tx.latchExit s.pins.exitReq) t) : RestSent (n + 1) s t := by
  obtain ⟨hpos, -, hcommits⟩ := State.tx_of_lt (s := s.sampled) hlt
  obtain ⟨hlevels, hexit, hstate⟩ := h
  constructor
  · rw [drop_frame, Levels.after_cons]
    simpa [hpos] using hlevels
  · rw [← State.pins_exitReq_or, ← Bool.or_assoc]
    simpa using hexit
  · rw [hstate]
    ext : 1 <;> simp [drop_frame s.draw s.pb s.pos, hpos, hcommits]

/-- A transmission without reset runs to its end, by induction on the operations left. -/
theorem runCycles_of_transmitting (n : Nat) {s : State} (hst : s.st = .transmitting) (hfr : s.frozen = false)
    (hn : s.pos.val + n = 906) (hrst : s.noResetFor n = true) : ∃ t, runCycles n s = .next t ∧ RestSent n s t := by
  induction n generalizing s with
  | zero => exact absurd s.pos.isLt (by unfold Config.opsPerCommit; omega)
  | succ n ih =>
    obtain ⟨hrst0, hrst'⟩ := s.noResetFor_succ hrst
    rw [runCycles_succ (step_of_transmitting hst hfr hrst0)]
    obtain hlt | hlast : s.pos.val < 905 ∨ s.pos.val = 905 := by omega
    · obtain ⟨hpos, hst', -⟩ := State.tx_of_lt (s := s.sampled) hlt
      have hn' : s.sampled.tx.pos.val + n = 906 := by rw [hpos, State.sampled_pos]; omega
      obtain ⟨t, hrun, hrest⟩ := ih (s := s.sampled.tx.latchExit s.pins.exitReq) (hst'.trans hst)
        (by simpa [State.frozen] using hfr) hn' (by simpa [State.noResetFor] using hrst')
      exact ⟨t, hrun, hrest.cons hlt⟩
    · obtain rfl : n = 0 := by omega
      exact ⟨_, rfl, restSent_of_last hlast⟩

/-! ## The accepted commit (R140, R141) -/

/-- An accepted SHOW or CLEAR starts a commit of the buffer it leaves: the same one, or the zero buffer. -/
theorem step_of_accepted_commit {s : State} {c : Bool} {w : CmdWord} {rest : List Pins} (hacc : s.accepting = true)
    (hin : s.inputs = ⟨false, c, true, w, false⟩ :: rest) (hop : fieldOp w = 0x06#8 ∨ fieldOp w = 0x07#8) :
    ∃ pb, step s = .next ({ s with pb := pb, inputs := rest } : State).startCommit := by
  obtain ⟨-, hcommand, -⟩ := stepRunsTheAcceptedCommand s c w rest hacc hin
  obtain hop | hop := hop
  · exact ⟨s.pb, hcommand _ (decode_showFrame hop)⟩
  · exact ⟨Buffer.zero, hcommand _ (decode_clear hop)⟩

/-- Settles O46: the run appends the frame of the buffer that stands at the end, and from CLOCK low, where the line
invariant has it in Idle, a frame is sampled as its wire bits. -/
theorem commitAddsItsWireBits : Obligations.CommitAddsItsWireBits := by
  intro s c w rest hacc hwire hin hop hrst
  obtain ⟨hst, hfault, hhalt, -⟩ := s.accepting_iff.mp hacc
  obtain ⟨pb, hstep⟩ := step_of_accepted_commit hacc hin hop
  obtain ⟨-, hrst'⟩ := s.noResetFor_succ hrst
  rw [State.noResetFor, State.sampled_inputs, hin] at hrst'
  obtain ⟨t, hrun, -, -, hstate⟩ := runCycles_of_transmitting 906
    (s := ({ s with pb := pb, inputs := rest } : State).startCommit) rfl
    ((State.frozen_eq_false _).mpr ⟨hfault, hhalt⟩) rfl hrst'
  have htrace : t.trace = s.trace ++ frame t.draw t.pb := by
    rw [hstate]
    rfl
  have hlow : Levels.after .low s.trace = ⟨false, false⟩ := by
    obtain ⟨hdata, hclock, -⟩ := hwire.idle hst
    rw [hwire.levels, hdata, hclock]
  refine ⟨t, (runCycles_succ hstep 906).trans hrun, by rw [hstate], ?_⟩
  rw [htrace, sampledBits, sampledFrom_append, hlow, sampledFrom_frame, sampledBits]

end Sys2Proof.Machine
end

section
/-! PROOFS. The statements of the family 40_buffer_commands.md: one entry written, the read-data register, and a word
presented to a block that is not ready. -/

namespace Sys2Proof.Machine

/-! ## A word that is not accepted (R100, R217) -/

theorem State.cmdReady_iff (s : State) (p : Pins) :
    s.cmdReady p = true ↔ s.accepting = true ∧ p.exitReq = false ∧ p.rst = false := by
  simp [State.cmdReady, and_assoc]

/-- In the order of R192 the word comes after reset, the frozen block, the transmitter and the exit service, and one of
them takes the cycle when the block is not ready. -/
theorem cycle_of_not_ready {p : Pins} {s : State} (h : s.cmdReady p = false) (v : Bool) (w : CmdWord) :
    cycle { p with cmdValid := v, cmd := w } s = cycle p s := by
  obtain hbusy | hfr | hexit | hreq | hrst : s.busy = true ∨ s.frozen = true ∨ s.exitp = true ∨ p.exitReq = true ∨
      p.rst = true := by
    by_contra! hnone
    simp [State.cmdReady, State.accepting, hnone] at h
  · simp [cycle, hbusy]
  · simp [cycle, hfr]
  · simp [cycle, hexit]
  · simp [cycle, hreq]
  · simp [cycle, hrst]

/-- The step when a sample of the pins is listed (log entry 1). -/
theorem step_of_inputs {s : State} {p : Pins} {rest : List Pins} (h : s.inputs = p :: rest) :
    step s = cycle p { s with inputs := rest } := by
  simp [step, State.pins, State.sampled, h]

/-- Settles O19: the two steps are cycles whose pins differ in the word alone (`step_of_inputs`), and a block that is not
ready does not look at it. -/
theorem wordNotReadyHasNoEffect : Obligations.WordNotReadyHasNoEffect := by
  intro s p rest v w hin hready
  have hready' : ({ s with inputs := rest } : State).cmdReady p = false := hready
  calc step { s with inputs := { p with cmdValid := v, cmd := w } :: rest }
      = cycle { p with cmdValid := v, cmd := w } { s with inputs := rest } := step_of_inputs rfl
    _ = cycle p { s with inputs := rest } := cycle_of_not_ready hready' v w
    _ = step s := (step_of_inputs hin).symm

/-! ## The write of one entry (R53) -/

/-- What an indexed write does: the entry takes the fields of the set, every other entry and register stays, and an
operand outside 0..7 raises IndexOutOfRange alone (R51, R53, R183). -/
theorem withPixel_writePixel (idx : Index) (f : FieldSet) (v : Pixel) (s : State) :
    (∀ i : Fin 8, idx.toInt = i.val → ∃ t, (withPixel idx s fun k => s.writePixel k f v) = .next t ∧
      t.pb[i] = f.write v s.pb[i] ∧ (∀ j : Fin 8, j ≠ i → t.pb[j] = s.pb[j]) ∧ t = { s with pb := t.pb }) ∧
    (idx.toInt < 0 ∨ 7 < idx.toInt → (withPixel idx s fun k => s.writePixel k f v) =
      .next { s with fault := .indexOutOfRange, finfo := idx }) := by
  refine ⟨fun i hi => ⟨_, withPixel_of_toInt hi s _, ?_, fun j hj => ?_, rfl⟩, fun hout => ?_⟩
  · exact (State.writePixel_read i i f v s).trans (if_pos rfl)
  · exact (State.writePixel_read i j f v s).trans (if_neg hj)
  · exact withPixel_of_outside hout s _

/-- Settles O6: SETPIXEL is the write of the whole record. -/
theorem setpixelWritesAllFourFields : Obligations.SetpixelWritesAllFourFields := by
  refine ⟨fun w hop => decode_setpixel hop, fun s idx r g b br => ?_⟩
  rw [exec_setpixel]
  exact withPixel_writePixel idx .whole ⟨r, g, b, br⟩ s

/-- Settles O7: SETCOLOR is the write of the field set r, g, b, which leaves `br` as it was. -/
theorem setcolorKeepsBrightness : Obligations.SetcolorKeepsBrightness := by
  refine ⟨fun w hop => decode_setcolor hop, fun s idx r g b => ?_⟩
  rw [exec_setcolor]
  exact withPixel_writePixel idx .colour ⟨r, g, b, 0#64⟩ s

/-- Settles O8: SETBRIGHT is the write of the field set br, which leaves the colours as they were. -/
theorem setbrightKeepsColour : Obligations.SetbrightKeepsColour := by
  refine ⟨fun w hop => decode_setbright hop, fun s idx br => ?_⟩
  rw [exec_setbright]
  exact withPixel_writePixel idx .brightness ⟨0#32, 0#32, 0#32, br⟩ s

/-- Settles O9: SETALL fills the buffer. -/
theorem setallWritesEveryPixel : Obligations.SetallWritesEveryPixel := by
  refine ⟨fun w hop => decode_setall hop, fun s r g b br => ?_⟩
  exact ⟨_, exec_setall r g b br s, fun i => State.fillPixels_read i _ s, rfl⟩

/-! ## The read-data register (R34, R105) -/

/-- No command but READ writes RDATA or RDV. -/
theorem exec_rdata_eq {i : Instr} {s t : State} (h : exec i s = .next t) (hop : i.op ≠ 0x05#8) :
    t.rdata = s.rdata := by
  cases i with
  | read => exact absurd rfl hop
  | setpixel | setcolor | setbright => obtain ⟨k, -, rfl⟩ | ⟨-, rfl⟩ := withPixel_next h <;> rfl
  | setall | showFrame | clear | setcoe => cases h; rfl

/-- An accepted word that changes RDATA or RDV is a READ: the fault of a reserved op does not (R184, R186). -/
theorem fieldOp_of_acceptWord_rdata_ne {w : CmdWord} {s t : State} (h : acceptWord w s = .next t)
    (hne : t.rdata ≠ s.rdata) : fieldOp w = 0x05#8 := by
  obtain ⟨i, hdecode, hop, -⟩ | ⟨-, hreserved⟩ := decode_cases w
  · rw [acceptWord_of_decode hdecode] at h
    by_contra hnot
    exact hne (exec_rdata_eq h (hop ▸ hnot))
  · rw [acceptWord_of_reserved hreserved] at h
    cases h
    exact absurd rfl hne

/-- Without reset only an accepted word can change RDATA or RDV. -/
theorem CycleEffect.accepted_of_rdata_ne {p : Pins} {s t : State} (h : CycleEffect p s t) (hrst : p.rst = false)
    (hne : t.rdata ≠ s.rdata) : s.cmdReady p = true ∧ p.cmdValid = true := by
  cases h with
  | reset h => simp [hrst] at h
  | word _ hfr hst hexit hreq hvalid =>
    obtain ⟨hfault, hhalt⟩ := s.frozen_eq_false.mp hfr
    exact ⟨(s.cmdReady_iff p).mpr ⟨s.accepting_iff.mpr ⟨hst, hfault, hhalt, hexit⟩, hreq, hrst⟩, hvalid⟩
  | _ => simp at hne

/-- Settles O10: READ is an indexed access that writes the read-data register alone; and a cycle that changes that
register accepts a word, which is then a READ. -/
theorem readCopiesTheRecord : Obligations.ReadCopiesTheRecord := by
  refine ⟨fun w hop => decode_read hop, fun s idx => ⟨fun i hi => ?inside, fun hout => ?outside⟩,
    fun s t hrst hstep hne => ?onlyRead⟩
  case inside => exact ⟨_, exec_read_of_toInt hi s, rfl, rfl, rfl⟩
  case outside => exact (exec_read idx s).trans (withPixel_of_outside hout s _)
  case onlyRead =>
    obtain ⟨hready, hvalid⟩ := (step_effect hstep).accepted_of_rdata_ne hrst hne
    obtain ⟨hacc, hreq, -⟩ := (State.cmdReady_iff _ _).mp hready
    have hword : acceptWord s.pins.cmd s.sampled = .next t :=
      (cycle_of_accepting hacc hrst hreq hvalid).symm.trans hstep
    exact ⟨hready, hvalid, fieldOp_of_acceptWord_rdata_ne hword hne⟩

end Sys2Proof.Machine
end

section
/-! PROOFS. The brightness code of the family 41_encode.md: the truncated product of R121 and R122 as the integer
computation of R125, and the nominal range of R123. -/

namespace Sys2Proof.Machine

/-! ## The truncated product as an integer computation (R121, R122, R125) -/

/-- The result of a truncation to the magnitude `mag`: none from 2^31 on (R124). -/
def signedTrunc (neg : Bool) (mag : Nat) : Option Int :=
  if mag < Config.truncLimit then some (if neg then -(mag : Int) else (mag : Int)) else none

/-- The integer part of `m * 2^e` once rounded to 53 significant bits, with no limit on the exponent (R125). -/
def roundedMag (m : Nat) (e : Int) : Nat :=
  if 53 < bitLength m then floorMag (roundShift m (bitLength m - 53)) (e + (bitLength m - 53 : Nat)) else floorMag m e

/-- The truncated product of a datum by 31, as R125 computes it. -/
def F64.truncTimes31 : F64 → Option Int
  | .fin neg m e => signedTrunc neg (roundedMag (31 * m) e)
  | _ => none

/-- The same test as R125 writes it. -/
theorem signedTrunc_eq (neg : Bool) (mag : Nat) :
    signedTrunc neg mag = if 2 ^ 31 ≤ mag then none else some (if neg then -(mag : Int) else (mag : Int)) := by
  unfold signedTrunc Config.truncLimit
  grind

theorem signedTrunc_eq_none {neg : Bool} {mag : Nat} (h : 2 ^ 31 ≤ mag) : signedTrunc neg mag = none :=
  if_neg (Nat.not_lt.mpr h)

/-! ### Bounds -/

theorem pos_of_bitLength_pos {n : Nat} (h : 0 < bitLength n) : 0 < n :=
  Nat.pos_of_ne_zero fun hzero => absurd h (by rw [hzero]; decide)

theorem bitLength_le_of_lt {n k : Nat} (h : n < 2 ^ k) : bitLength n ≤ k := by
  rcases Nat.eq_zero_or_pos n with rfl | hn
  · exact Nat.zero_le k
  · have hlt := (Nat.pow_lt_pow_iff_right (by decide)).mp ((two_pow_le_of_bitLength hn).trans_lt h)
    omega

theorem floorMag_le {n c k : Nat} {e : Int} (h : n ≤ c * 2 ^ k) (he : e + k ≤ 0) : floorMag n e ≤ c := by
  have hk : n ≤ c * 2 ^ (-e).toNat := h.trans (Nat.mul_le_mul_left c (Nat.pow_le_pow_right (by decide) (by omega)))
  unfold floorMag
  split
  · have he0 : e = 0 := by omega
    subst he0
    simpa using hk
  · exact Nat.div_le_of_le_mul (by rwa [Nat.mul_comm])

theorem floorMag_eq_zero {n k : Nat} {e : Int} (h : n < 2 ^ k) (he : e + k < 0) : floorMag n e = 0 := by
  unfold floorMag
  rw [if_neg (by omega)]
  exact Nat.div_eq_of_lt (h.trans_le (Nat.pow_le_pow_right (by decide) (by omega)))

theorem two_pow_le_floorMag {n : Nat} {e : Int} (hn : 0 < n) (k : Nat) (h : (k : Int) < e + bitLength n) :
    2 ^ k ≤ floorMag n e := by
  have hlow := two_pow_le_of_bitLength hn
  unfold floorMag
  split
  · calc 2 ^ k ≤ 2 ^ (bitLength n - 1 + e.toNat) := Nat.pow_le_pow_right (by decide) (by omega)
      _ = 2 ^ (bitLength n - 1) * 2 ^ e.toNat := pow_add _ _ _
      _ ≤ n * 2 ^ e.toNat := Nat.mul_le_mul_right _ hlow
  · rw [Nat.le_div_iff_mul_le (by positivity), ← pow_add]
    exact (Nat.pow_le_pow_right (by decide) (by omega)).trans hlow

theorem roundShift_pos {n d : Nat} (h : 2 ^ d ≤ n) : 0 < roundShift n d := by
  have hq : 0 < n / 2 ^ d := Nat.div_pos h (by positivity)
  unfold roundShift
  dsimp only
  split <;> omega

/-- Rounding does not pass a multiple of its step. -/
theorem roundShift_le {n c d : Nat} (h : n ≤ c * 2 ^ d) : roundShift n d ≤ c := by
  rcases h.eq_or_lt with rfl | hlt
  · exact (roundShift_exact c d).le
  · have hq : n / 2 ^ d < c := Nat.div_lt_of_lt_mul (by rwa [Nat.mul_comm])
    unfold roundShift
    dsimp only
    split <;> omega

theorem roundedMag_le {n c k : Nat} {e : Int} (h : n ≤ c * 2 ^ k) (he : e + k ≤ 0) (hk : bitLength n ≤ 53 + k) :
    roundedMag n e ≤ c := by
  unfold roundedMag
  split
  · have hsplit : 2 ^ k = 2 ^ (k - (bitLength n - 53)) * 2 ^ (bitLength n - 53) := by
      rw [← pow_add, Nat.sub_add_cancel (by omega)]
    have hround : roundShift n (bitLength n - 53) ≤ c * 2 ^ (k - (bitLength n - 53)) :=
      roundShift_le (by rwa [Nat.mul_assoc, ← hsplit])
    exact floorMag_le hround (by omega)
  · exact floorMag_le h he

/-! ### Scaling -/

@[simp] theorem floorMag_zero (e : Int) : floorMag 0 e = 0 := by simp [floorMag]

theorem roundShift_mul_two_pow_of_le {n d k : Nat} (h : d ≤ k) : roundShift (n * 2 ^ k) d = n * 2 ^ (k - d) := by
  rw [← Nat.sub_add_cancel h, pow_add, ← Nat.mul_assoc, roundShift_exact, Nat.add_sub_cancel]

@[simp] theorem roundedMag_zero (e : Int) : roundedMag 0 e = 0 := by simp [roundedMag, bitLength]

/-- The rounded magnitude does not depend on how a value is written as a multiple of a power of two. -/
theorem roundedMag_mul_two_pow (n k : Nat) (e : Int) : roundedMag (n * 2 ^ k) (e - k) = roundedMag n e := by
  rcases Nat.eq_zero_or_pos n with rfl | hn
  · simp
  unfold roundedMag
  rw [bitLength_mul_two_pow hn]
  by_cases hround : 53 < bitLength n
  · rw [if_pos (by omega), if_pos hround, show bitLength n + k - 53 = bitLength n - 53 + k by omega,
      roundShift_mul_two_pow]
    exact congrArg _ (by omega)
  · rw [if_neg hround]
    split
    · rw [roundShift_mul_two_pow_of_le (by omega), ← floorMag_mul_two_pow n (k - (bitLength n + k - 53)) e]
      exact congrArg _ (by omega)
    · exact floorMag_mul_two_pow n k e

/-! ### Rounding to binary64 and truncating (R122) -/

/-- A rounded datum that is too large for binary64 truncates like its infinity: both are in the undefined range. -/
theorem F64.trunc31_inf_or_fin {neg : Bool} {p : Nat} {q : Int} (hp : p = 0 → q ≤ 1024) :
    (if (1024 : Int) < q + bitLength p then F64.inf neg else .fin neg p q).trunc31 =
      signedTrunc neg (floorMag p q) := by
  split
  next hover =>
    have hpos : 0 < p := by
      by_contra hp0
      obtain rfl : p = 0 := by omega
      have hq := hp rfl
      have hlen : bitLength 0 = 0 := rfl
      omega
    exact (signedTrunc_eq_none (two_pow_le_floorMag hpos 31 (by omega))).symm
  next => rfl

/-- A value below the normal range is less than 1, however it is rounded. -/
theorem floorMag_roundShift_eq_zero {m d : Nat} {e : Int} (hd : bitLength m ≤ 53 + d) (he : e < -54) :
    floorMag (roundShift m d) e = 0 := by
  have hm : m ≤ 2 ^ 53 * 2 ^ d := by
    rw [← pow_add]
    exact (lt_two_pow_bitLength m).le.trans (Nat.pow_le_pow_right (by decide) hd)
  exact floorMag_eq_zero (k := 54) ((roundShift_le hm).trans_lt (by decide)) (by omega)

theorem roundedMag_eq_zero {m : Nat} {e : Int} (h : e + bitLength m < -54) : roundedMag m e = 0 := by
  unfold roundedMag
  split
  · exact floorMag_roundShift_eq_zero (by omega) (by omega)
  · exact floorMag_eq_zero (lt_two_pow_bitLength m) (by omega)

/-- The exponent limits of binary64 do not show after the truncation (R125): rounding to a subnormal gives 0 either way,
and an overflow is in the undefined range either way. -/
theorem F64.trunc31_round {neg : Bool} {m : Nat} {e : Int} (h : m = 0 → e ≤ 1024) :
    (F64.round neg m e).trunc31 = signedTrunc neg (roundedMag m e) := by
  unfold F64.round
  dsimp only
  split
  case isTrue hexact =>
    rw [trunc31_inf_or_fin h, roundedMag, if_neg (by omega)]
  case isFalse hround =>
    rcases lt_or_ge (e + bitLength m - 53) (-1074) with hsub | hnormal
    case inl =>
      have hmag : floorMag (roundShift m (-1074 - e).toNat) (-1074) = 0 :=
        floorMag_roundShift_eq_zero (by omega) (by omega)
      rw [max_eq_right hsub.le, trunc31_inf_or_fin fun _ => by decide, hmag, roundedMag_eq_zero (by omega)]
    case inr =>
      rw [max_eq_left hnormal] at hround ⊢
      have hlong : 53 < bitLength m := by omega
      have hpos : 0 < roundShift m (bitLength m - 53) :=
        roundShift_pos ((Nat.pow_le_pow_right (by decide) (by omega)).trans
          (two_pow_le_of_bitLength (pos_of_bitLength_pos (by omega))))
      rw [show (e + bitLength m - 53 - e).toNat = bitLength m - 53 by omega,
        show e + (bitLength m : Int) - 53 = e + (bitLength m - 53 : Nat) by omega,
        trunc31_inf_or_fin fun h0 => absurd h0 hpos.ne', roundedMag, if_pos hlong]

/-! ### Both computations on a brightness -/

theorem F64.trunc31_mul_31 {neg : Bool} {m : Nat} {e : Int} (h : m = 0 → e ≤ 1072) :
    (F64.mul (.fin neg m e) (.ofBits Config.brScaleBits)).trunc31 = (F64.fin neg m e).truncTimes31 := by
  rw [ofBits_brScaleBits, F64.mul, Bool.bne_false, show m * (31 * 2 ^ 48) = 31 * m * 2 ^ 48 by ring,
    F64.trunc31_round (by omega)]
  exact congrArg _ (roundedMag_mul_two_pow (31 * m) 48 e)

/-- Rounding by the half of the step, as R125 writes it. -/
theorem roundShift_of_pos {n d : Nat} (hd : 0 < d) : roundShift n d =
    if n % 2 ^ d > 2 ^ (d - 1) ∨ (n % 2 ^ d = 2 ^ (d - 1) ∧ n / 2 ^ d % 2 = 1) then n / 2 ^ d + 1
    else n / 2 ^ d := by
  have hhalf : 2 ^ d = 2 * 2 ^ (d - 1) := by rw [← pow_succ', Nat.sub_add_cancel hd]
  unfold roundShift
  generalize n / 2 ^ d = q, n % 2 ^ d = r
  grind

/-- The significand of a brightness that is a number: a subnormal has no leading one (R125). -/
def brSignificand (br : Brightness) : Nat :=
  if (br.extractLsb' 52 11).toNat = 0 then (br.extractLsb' 0 52).toNat else 2 ^ 52 + (br.extractLsb' 0 52).toNat

/-- The weight of its lowest bit, as an exponent of 2 (R125). -/
def brExponent (br : Brightness) : Int :=
  if (br.extractLsb' 52 11).toNat = 0 then -1074 else ((br.extractLsb' 52 11).toNat : Int) - 1075

theorem F64.ofBits_of_number {br : Brightness} (h : (br.extractLsb' 52 11).toNat ≠ 0x7FF) :
    F64.ofBits br = .fin (br.getLsbD 63) (brSignificand br) (brExponent br) := by
  unfold F64.ofBits brSignificand brExponent
  dsimp only
  rw [if_neg h]
  split <;> rfl

theorem F64.ofBits_of_not_number {br : Brightness} (h : (br.extractLsb' 52 11).toNat = 0x7FF) :
    F64.ofBits br = .inf (br.getLsbD 63) ∨ F64.ofBits br = .nan := by
  unfold F64.ofBits
  dsimp only
  rw [if_pos h]
  split
  · exact .inl rfl
  · exact .inr rfl

theorem brExponent_of_significand_zero {br : Brightness} (h : brSignificand br = 0) : brExponent br = -1074 := by
  unfold brSignificand at h
  unfold brExponent
  split at h
  next hsub => exact if_pos hsub
  next => omega

theorem brTrunc_eq (br : Brightness) : brTrunc br = (F64.ofBits br).truncTimes31 := by
  unfold brTrunc fmul64
  by_cases h : (br.extractLsb' 52 11).toNat = 0x7FF
  · rcases F64.ofBits_of_not_number h with hbr | hbr <;> rw [hbr, ofBits_brScaleBits] <;> rfl
  · rw [F64.ofBits_of_number h]
    exact F64.trunc31_mul_31 fun hzero => by rw [brExponent_of_significand_zero hzero]; decide

theorem brTruncInt_eq (br : Brightness) : brTruncInt br = (F64.ofBits br).truncTimes31 := by
  unfold brTruncInt
  dsimp only
  by_cases h : (br.extractLsb' 52 11).toNat = 0x7FF
  · rw [if_pos h]
    rcases F64.ofBits_of_not_number h with hbr | hbr <;> rw [hbr] <;> rfl
  · rw [if_neg h, F64.ofBits_of_number h, F64.truncTimes31, signedTrunc_eq, roundedMag,
      ← brSignificand, ← brExponent]
    by_cases hlong : 53 < bitLength (31 * brSignificand br)
    · simp only [gt_iff_lt, if_pos hlong, roundShift_of_pos (Nat.sub_pos_of_lt hlong)]
      rfl
    · simp only [gt_iff_lt, if_neg hlong]
      rfl

/-- Settles O33: the product rounded to binary64 and R125's steps both truncate the same rounded magnitude. -/
theorem floatFreeTruncationAgrees : Obligations.FloatFreeTruncationAgrees :=
  fun br => (brTrunc_eq br).trans (brTruncInt_eq br).symm

/-! ## The nominal range (R123) -/

/-- A pattern from +0.0 up to 1.0 is a number `m * 2^e` without sign, at most 1. -/
theorem nominal_number {br : Brightness} (h : br.toNat ≤ 0x3FF0000000000000) :
    F64.ofBits br = .fin false (brSignificand br) (brExponent br) ∧
      ∃ k : Nat, 5 ≤ k ∧ brSignificand br ≤ 2 ^ k ∧ brExponent br + k ≤ 0 := by
  have hexpo : (br.extractLsb' 52 11).toNat = br.toNat / 2 ^ 52 := by
    rw [BitVec.extractLsb'_toNat, Nat.shiftRight_eq_div_pow]
    omega
  have hfrac : (br.extractLsb' 0 52).toNat = br.toNat % 2 ^ 52 := by
    rw [BitVec.extractLsb'_toNat, Nat.shiftRight_zero]
  have hsign : br.getLsbD 63 = false := by
    rw [BitVec.getLsbD, Nat.testBit_lt_two_pow (by omega)]
  rw [F64.ofBits_of_number (by omega), hsign]
  refine ⟨rfl, ?_⟩
  unfold brSignificand brExponent
  rw [hexpo, hfrac]
  rcases (by omega : br.toNat = 0x3FF0000000000000 ∨ br.toNat < 0x3FF0000000000000) with hone | hless
  · exact ⟨52, by decide, by rw [hone]; decide, by rw [hone]; decide⟩
  · refine ⟨53, by decide, ?_, ?_⟩ <;> split <;> omega

/-- Where the product truncates to `t` in 0..31, the brightness code is `t`. -/
theorem toNat_brCode {draw : BrCode} {br : Brightness} {t : Nat} (h : brTrunc br = some (t : Int)) (ht : t ≤ 31) :
    (brCode draw br).toNat = t := by
  simp only [brCode, h, BitVec.toNat_ofNat]
  omega

/-- Settles O34: on `m * 2^e ≤ 1` the product by 31 is at most 31, and rounding does not pass 31. -/
theorem nominalBrightnessCode : Obligations.NominalBrightnessCode := by
  intro draw br hnominal
  obtain ⟨t, hle, htrunc⟩ : ∃ t : Nat, t ≤ 31 ∧ brTrunc br = some (t : Int) := by
    rcases hnominal with hrange | rfl
    · obtain ⟨hbits, k, hk, hsig, hexp⟩ := nominal_number hrange
      have hprod : 31 * brSignificand br ≤ 31 * 2 ^ k := Nat.mul_le_mul_left 31 hsig
      have hlen : bitLength (31 * brSignificand br) ≤ 53 + k := by
        refine bitLength_le_of_lt (hprod.trans_lt ?_)
        rw [pow_add]
        exact Nat.mul_lt_mul_of_pos_right (by decide) (by positivity)
      have hmag := roundedMag_le hprod hexp hlen
      refine ⟨_, hmag, ?_⟩
      rw [brTrunc_eq, hbits, F64.truncTimes31, signedTrunc_eq, if_neg (by omega)]
      rfl
    · refine ⟨0, by decide, ?_⟩
      rw [brTrunc_eq, show F64.ofBits 0x8000000000000000#64 = .fin true 0 (-1074) by decide, F64.truncTimes31,
        roundedMag_zero]
      rfl
  exact ⟨t, htrunc, by omega, by omega, congrArg _ (toNat_brCode htrunc hle)⟩

end Sys2Proof.Machine
end

section
/-! PROOFS. The bytes of the family 41_encode.md: the colour byte (R120), the brightness byte (R121, R124, R126) and the
bit cells that send a byte (R127). -/

namespace Sys2Proof.Machine

/-! ## The colour byte (R120) -/

/-- Settles O30: two's complement and the unsigned reading differ by a multiple of 2^32, which 256 divides. -/
theorem colourByteIsTheValueModulo256 : Obligations.ColourByteIsTheValueModulo256 := by
  refine fun c => ⟨rfl, ?_⟩
  have hbyte : (colByte c).toNat = c.toNat % 256 := by
    rw [colByte, BitVec.extractLsb'_toNat, Nat.shiftRight_zero]
  rw [hbyte, BitVec.toInt_eq_toNat_bmod, Int.bmod_def]
  split <;> omega

/-! ## The brightness byte (R121, R124, R126) -/

/-- The brightness byte as the source builds it: the low five bits under the mask 224. -/
theorem ones_append_setWidth (x : BitVec 8) : 0b111#3 ++ x.setWidth 5 = 224#8 ||| x := by
  revert x
  decide

/-- Cutting a two's complement down to fewer bits. -/
theorem setWidth_ofInt_of_le {v w : Nat} (h : v ≤ w) (t : Int) :
    (BitVec.ofInt w t).setWidth v = BitVec.ofInt v t := by
  cases t with
  | ofNat n => exact BitVec.setWidth_ofNat_of_le h n
  | negSucc n =>
    rw [BitVec.ofInt_negSucc_eq_not_ofNat, BitVec.ofInt_negSucc_eq_not_ofNat, BitVec.setWidth_not h,
      BitVec.setWidth_ofNat_of_le h]

theorem F64.trunc31_bounds {x : F64} {t : Int} (h : x.trunc31 = some t) : -(2 ^ 31) < t ∧ t < 2 ^ 31 := by
  cases x with
  | nan => cases h
  | inf neg => cases h
  | fin neg m e =>
    rw [trunc31] at h
    unfold Config.truncLimit at h
    grind

theorem brCode_of_defined {draw : BrCode} {br : Brightness} {t : Int} (h : brTrunc br = some t) :
    brCode draw br = BitVec.ofInt 5 t := by
  apply BitVec.eq_of_toNat_eq
  simp only [brCode, h, BitVec.toNat_ofNat, BitVec.toNat_ofInt]
  omega

theorem brCode_of_undefined {draw : BrCode} {br : Brightness} (h : undefinedBr br = true) :
    brCode draw br = draw := by
  rw [undefinedBr, Option.isNone_iff_eq_none] at h
  simp only [brCode, h]

/-- Settles O31: only the low eight bits of the two's complement count, and 224 sets the three above the code. -/
theorem brightnessByteIsTheOrForm : Obligations.BrightnessByteIsTheOrForm := by
  intro draw br t width htrunc hwidth
  obtain ⟨hlow, hhigh⟩ := F64.trunc31_bounds htrunc
  refine ⟨hlow, hhigh, ?_⟩
  rw [brByte, brCode_of_defined htrunc, ← setWidth_ofInt_of_le (by decide : 5 ≤ 8), ones_append_setWidth,
    BitVec.setWidth_or, BitVec.setWidth_ofNat_of_le (by omega), setWidth_ofInt_of_le (by omega)]

/-- Settles O32: the byte is 111 above the code, and the code is the draw in the undefined range. -/
theorem brightnessByteTopBits : Obligations.BrightnessByteTopBits := by
  intro draw br
  have hparts : ∀ code : BrCode, (0b111#3 ++ code).extractLsb' 5 3 = 0b111#3 ∧ 224 ≤ (0b111#3 ++ code).toNat ∧
      (0b111#3 ++ code).extractLsb' 0 5 = code := by decide
  obtain ⟨htop, hmin, hcode⟩ := hparts (brCode draw br)
  exact ⟨htop, hmin, fun hundef => hcode.trans (brCode_of_undefined hundef)⟩

/-! ## Bit cells (R127) -/

/-- The bit cell of one bit (R79). -/
def bitCell (bit : Bool) : List LineOp := [dataOp bit, .ch, .cl]

theorem writeBits_succ (n : Nat) (w : WireByte) :
    writeBits (n + 1) w = bitCell (w.getLsbD 7) ++ writeBits n (w <<< 1) := by
  have htop : (w &&& 0b10000000#8 != 0#8) = w.getLsbD 7 := by
    revert w
    decide
  rw [writeBits, htop]
  rfl

/-- The shifted working value sends its bits from bit 7 downwards. -/
theorem writeBits_eq (n : Nat) (w : WireByte) (hn : n ≤ 8) :
    writeBits n w = (List.range n).flatMap fun k => bitCell (w.getLsbD (7 - k)) := by
  induction n generalizing w with
  | zero => rfl
  | succ n ih =>
    rw [writeBits_succ, ih _ (by omega), List.range_succ_eq_map, List.flatMap_cons, List.flatMap_map]
    congr 1
    refine List.flatMap_congr fun k hk => congrArg bitCell ?_
    have hk' : k < n := List.mem_range.mp hk
    rw [BitVec.getLsbD_shiftLeft, show 7 - k - 1 = 7 - (k + 1) by omega]
    simp [show 7 - k < 8 by omega, show 7 - k ≠ 0 by omega]

/-- Settles O35: eight bit cells, from bit 7 downwards. -/
theorem writeByteSendsMsbFirst : Obligations.WriteByteSendsMsbFirst :=
  fun v => writeBits_eq 8 v le_rfl

end Sys2Proof.Machine
end

section
/-! PROOFS. The frame of the family 41_encode.md: its counts, its position map and clock pulses (R130, R131), what a draw
reaches (R124), and the two readings of a reset frame (R153). -/

namespace Sys2Proof.Machine

/-! ## Counts (R130, R154) -/

theorem count_pixelFrames (draw : Nat → BrCode) (pb : Buffer) :
    (pixelFrames draw pb).count .ch = 256 ∧ (pixelFrames draw pb).count .cl = 256 ∧
      (pixelFrames draw pb).count .d0 + (pixelFrames draw pb).count .d1 = 256 := by
  have upTo (n : Nat) : let ops := (List.range n).flatMap fun i => pixelFrame (draw i) (pixelAt pb i)
      ops.count .ch = 32 * n ∧ ops.count .cl = 32 * n ∧ ops.count .d0 + ops.count .d1 = 32 * n := by
    induction n with
    | zero => exact ⟨rfl, rfl, rfl⟩
    | succ n ih =>
      have hlast := count_pixelFrame (draw n) (pixelAt pb n)
      simp only [List.range_succ, List.flatMap_append, List.flatMap_singleton, List.count_append] at ih ⊢
      omega
  rw [pixelFrames_range]
  exact upTo 8

theorem count_resetFrame (n : Nat) : (resetFrame n).count .ch = n ∧ (resetFrame n).count .cl = n ∧
    (resetFrame n).count .d0 = 1 ∧ (resetFrame n).count .d1 = 0 := by
  obtain ⟨hch, hcl, hd0, hd1⟩ := count_pulses n
  simp [resetFrame, hch, hcl, hd0, hd1]

/-- Settles O36: the counts of the start frame, the pixel frames and the end frame add up. -/
theorem frameCounts : Obligations.FrameCounts := by
  intro draw pb
  have hpixels := count_pixelFrames draw pb
  have hstart := count_resetFrame Config.startPulses
  have hend := count_resetFrame Config.endPulses
  rw [Config.startPulses] at hstart
  rw [Config.endPulses] at hend
  refine ⟨length_frame draw pb, ?_⟩
  simp only [frame, List.count_append, Config.startPulses, Config.endPulses]
  omega

/-! ## The position map (R131) -/

theorem getElem?_frame_start (draw : Nat → BrCode) (pb : Buffer) {k : Nat} (hk : k < 65) :
    (frame draw pb)[k]? = (resetFrame Config.startPulses)[k]? := by
  have hlen : (resetFrame Config.startPulses).length = 65 := length_resetFrame _
  rw [frame, List.append_assoc, List.getElem?_append_left (by omega)]

theorem getElem?_frame_pixels (draw : Nat → BrCode) (pb : Buffer) {q : Nat} (hq : q < 768) :
    (frame draw pb)[65 + q]? = (pixelFrames draw pb)[q]? := by
  have hlen : (resetFrame Config.startPulses).length = 65 := length_resetFrame _
  have hpix := length_pixelFrames draw pb
  rw [frame, List.append_assoc, List.getElem?_append_right (by omega), List.getElem?_append_left (by omega), hlen,
    Nat.add_sub_cancel_left]

theorem getElem?_frame_end (draw : Nat → BrCode) (pb : Buffer) (j : Nat) :
    (frame draw pb)[833 + j]? = (resetFrame Config.endPulses)[j]? := by
  have hlen : (resetFrame Config.startPulses).length = 65 := length_resetFrame _
  have hpix := length_pixelFrames draw pb
  rw [frame, List.getElem?_append_right (by simp [hlen, hpix]), List.length_append, hlen, hpix,
    Nat.add_sub_cancel_left]

theorem positionMap_pixels (draw : Nat → BrCode) (pb : Buffer) {q : Nat} (hq : q < 768) :
    positionMap draw pb (65 + q) =
      if q % 3 = 0 then
        dataOp ((frameByte (draw (q / 96)) (pixelAt pb (q / 96)) (q % 96 / 24)).getLsbD (7 - q % 24 / 3))
      else if q % 3 = 1 then .ch else .cl := by
  unfold positionMap
  rw [if_neg (by omega), if_neg (by omega), if_pos (by omega)]
  dsimp only
  rw [Nat.add_sub_cancel_left, show q / 24 / 4 = q / 96 by omega, show q / 24 % 4 = q % 96 / 24 by omega]

theorem positionMap_start_pulse (draw : Nat → BrCode) (pb : Buffer) {j : Nat} (hj : j < 64) :
    positionMap draw pb (j + 1) = pulseOp j := by
  unfold positionMap
  rw [if_neg (by omega), if_pos (by omega), Nat.add_sub_cancel]

theorem positionMap_end_pulse (draw : Nat → BrCode) (pb : Buffer) (j : Nat) :
    positionMap draw pb (834 + j) = pulseOp j := by
  unfold positionMap
  rw [if_neg (by omega), if_neg (by omega), if_neg (by omega), if_neg (by omega), Nat.add_sub_cancel_left]

/-- The five kinds of places of a commit, one per row of the table of R131. -/
theorem place_cases {k : Nat} (hk : k < 906) :
    k = 0 ∨ (∃ j < 64, k = j + 1) ∨ (∃ q < 768, k = 65 + q) ∨ k = 833 ∨ ∃ j < 72, k = 834 + j := by
  rcases (by omega : k = 0 ∨ (1 ≤ k ∧ k < 65) ∨ (65 ≤ k ∧ k < 833) ∨ k = 833 ∨ 834 ≤ k) with h | h | h | h | h
  · exact .inl h
  · exact .inr (.inl ⟨k - 1, by omega, by omega⟩)
  · exact .inr (.inr (.inl ⟨k - 65, by omega, by omega⟩))
  · exact .inr (.inr (.inr (.inl h)))
  · exact .inr (.inr (.inr (.inr ⟨k - 834, by omega, by omega⟩)))

/-- Settles O37: start frame, pixel frames and end frame, each read at its own places. -/
theorem positionMapOfTheFrame : Obligations.PositionMapOfTheFrame := by
  intro draw pb k hk
  rcases place_cases hk with rfl | ⟨j, hj, rfl⟩ | ⟨q, hq, rfl⟩ | rfl | ⟨j, hj, rfl⟩
  · rw [getElem?_frame_start draw pb (by decide)]
    rfl
  · rw [getElem?_frame_start draw pb (by omega), positionMap_start_pulse draw pb hj]
    exact getElem?_pulses 32 j hj
  · rw [getElem?_frame_pixels draw pb hq, getElem?_pixelFrames draw pb q hq, getElem?_pixelFrame _ _ _ (by omega),
      positionMap_pixels draw pb hq, show q % 96 % 3 = q % 3 by omega, show q % 96 % 24 = q % 24 by omega]
  · rw [getElem?_frame_end draw pb 0]
    rfl
  · rw [show 834 + j = 833 + (j + 1) by omega, getElem?_frame_end, ← show 834 + j = 833 + (j + 1) by omega,
      positionMap_end_pulse]
    exact getElem?_pulses 36 j hj

/-! ## Clock pulses (R131) -/

/-- The number of CH operations before place `k` of a commit. -/
def chBefore (k : Nat) : Nat :=
  if k ≤ 65 then k / 2 else if k ≤ 833 then 32 + (k - 64) / 3 else 288 + (k - 833) / 2

theorem chBefore_start {k : Nat} (hk : k ≤ 65) : chBefore k = k / 2 := if_pos hk

theorem chBefore_pixels {q : Nat} (hq : q ≤ 768) : chBefore (65 + q) = 32 + (q + 1) / 3 := by
  unfold chBefore
  split_ifs <;> omega

theorem chBefore_end (j : Nat) : chBefore (833 + j) = 288 + j / 2 := by
  unfold chBefore
  split_ifs <;> omega

theorem dataOp_ne_ch (bit : Bool) : dataOp bit ≠ .ch := by cases bit <;> decide

theorem pulseOp_eq_ch_iff (j : Nat) : pulseOp j = .ch ↔ j % 2 = 0 := by
  unfold pulseOp
  split <;> simp [*]

/-- The count moves on exactly at a CH. -/
theorem chBefore_succ (draw : Nat → BrCode) (pb : Buffer) {k : Nat} (hk : k < 906) :
    chBefore (k + 1) = chBefore k + if positionMap draw pb k = .ch then 1 else 0 := by
  rcases place_cases hk with rfl | ⟨j, hj, rfl⟩ | ⟨q, hq, rfl⟩ | rfl | ⟨j, hj, rfl⟩
  · rfl
  · rw [positionMap_start_pulse draw pb hj, chBefore_start (by omega), chBefore_start (by omega)]
    simp only [pulseOp_eq_ch_iff]
    split <;> omega
  · rw [positionMap_pixels draw pb hq, Nat.add_assoc, chBefore_pixels (by omega), chBefore_pixels (by omega)]
    split
    · rw [if_neg (dataOp_ne_ch _)]
      omega
    · split <;> simp <;> omega
  · rfl
  · rw [positionMap_end_pulse, show 834 + j + 1 = 833 + (j + 2) by omega, show 834 + j = 833 + (j + 1) by omega,
      chBefore_end, chBefore_end]
    simp only [pulseOp_eq_ch_iff]
    split <;> omega

theorem count_ch_take_frame (draw : Nat → BrCode) (pb : Buffer) {k : Nat} (hk : k ≤ 906) :
    ((frame draw pb).take k).count .ch = chBefore k := by
  induction k with
  | zero => rfl
  | succ k ih =>
    rw [List.take_add_one, positionMapOfTheFrame draw pb k hk, List.count_append, ih (by omega), Option.toList_some,
      List.count_singleton, chBefore_succ draw pb hk]
    simp only [beq_iff_eq]

/-- At the place of the `m`-th CH the count goes from `m` to `m + 1`. -/
theorem chBefore_chPosition {m : Nat} (hm : m < 324) :
    chPosition m < 906 ∧ chBefore (chPosition m) = m ∧ chBefore (chPosition m + 1) = m + 1 := by
  unfold chPosition chBefore
  split_ifs <;> omega

/-- Settles O38: the number of CH before a place is known at every place, and it moves on exactly at a CH. -/
theorem clockPulsePositions : Obligations.ClockPulsePositions := by
  intro draw pb m hm
  obtain ⟨hlt, hbefore, hafter⟩ := chBefore_chPosition hm
  have hch : positionMap draw pb (chPosition m) = .ch := by
    by_contra hne
    have hsucc := chBefore_succ draw pb hlt
    rw [if_neg hne] at hsucc
    omega
  exact ⟨by rw [positionMapOfTheFrame draw pb _ hlt, hch], by rw [count_ch_take_frame draw pb hlt.le, hbefore]⟩

/-! ## Draws (R124, R130) -/

theorem brCode_eq_of_defined {br : Brightness} (h : undefinedBr br = false) (draw draw' : BrCode) :
    brCode draw br = brCode draw' br := by
  unfold undefinedBr at h
  unfold brCode
  split
  · rfl
  next hnone => simp [hnone] at h

theorem undefinedBr_of_brByte_bit_ne {draw draw' : BrCode} {br : Brightness} {n : Nat}
    (h : (brByte draw br).getLsbD n ≠ (brByte draw' br).getLsbD n) : undefinedBr br = true ∧ n < 5 := by
  constructor
  · by_contra hdef
    exact h (by rw [brByte, brByte, brCode_eq_of_defined (Bool.not_eq_true _ ▸ hdef) draw draw'])
  · by_contra hn
    exact h (by simp only [brByte, BitVec.getLsbD_append, if_neg hn])

theorem frameByte_bit_ne {draw draw' : BrCode} {p : Pixel} {c n : Nat}
    (h : (frameByte draw p c).getLsbD n ≠ (frameByte draw' p c).getLsbD n) :
    c = 0 ∧ undefinedBr p.br = true ∧ n < 5 := by
  have hc : c = 0 := by
    by_contra hc
    exact h (by simp only [frameByte, if_neg hc])
  subst hc
  exact ⟨rfl, undefinedBr_of_brByte_bit_ne h⟩

/-- Where two draws make different operations, a code bit of an undefined brightness is sent (R124). -/
theorem positionMap_ne {draw draw' : Nat → BrCode} {pb : Buffer} {k : Nat} (hk : k < 906)
    (h : positionMap draw pb k ≠ positionMap draw' pb k) :
    ∃ q < 768, k = 65 + q ∧ q % 3 = 0 ∧ q % 96 / 24 = 0 ∧ 7 - q % 24 / 3 < 5 ∧
      undefinedBr (pixelAt pb (q / 96)).br = true := by
  rcases place_cases hk with rfl | ⟨j, hj, rfl⟩ | ⟨q, hq, rfl⟩ | rfl | ⟨j, hj, rfl⟩
  · exact absurd rfl h
  · exact absurd (by rw [positionMap_start_pulse _ _ hj, positionMap_start_pulse _ _ hj]) h
  · rw [positionMap_pixels draw pb hq, positionMap_pixels draw' pb hq] at h
    have hphase : q % 3 = 0 := by
      by_contra hphase
      exact h (by rw [if_neg hphase, if_neg hphase])
    rw [if_pos hphase, if_pos hphase] at h
    obtain ⟨hc, hundef, hbit⟩ := frameByte_bit_ne fun hbit => h (congrArg dataOp hbit)
    exact ⟨q, hq, rfl, hphase, hc, hbit, hundef⟩
  · exact absurd rfl h
  · exact absurd (by rw [positionMap_end_pulse, positionMap_end_pulse]) h

/-- Settles O39: by the position map, a draw shows only in the DATA operation of a bit below 5 of a brightness byte. -/
theorem drawsOnlyReachUndefinedCodes : Obligations.DrawsOnlyReachUndefinedCodes := by
  intro draw draw' pb k hne
  have hk : k < 906 := by
    by_contra hk
    have hout (d : Nat → BrCode) : (frame d pb)[k]? = none :=
      List.getElem?_eq_none (by rw [length_frame]; exact Nat.le_of_not_lt hk)
    exact hne (by rw [hout, hout])
  rw [positionMapOfTheFrame draw pb k hk, positionMapOfTheFrame draw' pb k hk] at hne
  obtain ⟨q, hq, rfl, hphase, hbyte, hbit, hundef⟩ := positionMap_ne hk fun h => hne (congrArg some h)
  have hi : q / 96 < 8 := by omega
  have hpixel := pixelAt_fin pb ⟨q / 96, hi⟩
  refine ⟨⟨q / 96, hi⟩, by rwa [← hpixel], ?_⟩
  dsimp only
  omega

/-- Settles O40: a place where two frames differ would show a brightness in the undefined range. -/
theorem nominalFrameHasNoDraw : Obligations.NominalFrameHasNoDraw := by
  intro draw draw' pb hnominal
  refine List.ext_getElem? fun k => ?_
  by_contra hne
  obtain ⟨i, hundef, -⟩ := drawsOnlyReachUndefinedCodes draw draw' pb k hne
  exact Bool.false_ne_true ((hnominal i).symm.trans hundef)

/-! ## The two readings of a reset frame (R153) -/

theorem sampledFrom_resetFramePerPulse (n : Nat) (d : Bool) :
    sampledFrom ⟨d, false⟩ (resetFramePerPulse n) = List.replicate n false := by
  induction n generalizing d with
  | zero => rfl
  | succ n ih => simp [resetFramePerPulse, sampledFrom, Levels.apply, ih, List.replicate_succ]

/-- From both lines low the two readings make the same level trace: a repeated D0 changes no level. -/
theorem destutter_pulses (n : Nat) :
    (levelsFrom .low (pulses n)).destutter' (· ≠ ·) .low =
      (levelsFrom .low (resetFramePerPulse n)).destutter' (· ≠ ·) .low := by
  induction n with
  | zero => rfl
  | succ n ih =>
    simp only [pulses, resetFramePerPulse, levelsFrom, Levels.apply, Levels.low, List.destutter'] at ih ⊢
    simp [ih]

theorem destutter_resetFrame (n : Nat) (d : Bool) :
    (levelsFrom ⟨d, false⟩ (resetFrame n)).destutter (· ≠ ·) =
      (levelsFrom .low (pulses n)).destutter' (· ≠ ·) .low := rfl

/-- The first D0 of at least one pulse leaves both lines low, whatever DATA was. -/
theorem destutter_resetFramePerPulse (n : Nat) (d : Bool) :
    (levelsFrom ⟨d, false⟩ (resetFramePerPulse (n + 1))).destutter (· ≠ ·) =
      (levelsFrom .low (resetFramePerPulse (n + 1))).destutter' (· ≠ ·) .low :=
  (List.destutter'_cons_neg _ (not_not.mpr rfl)).symm

/-- Settles O43: each pulse is sampled low in both readings, and a repeated D0 changes no level. -/
theorem resetFrameReadingIsInvisible : Obligations.ResetFrameReadingIsInvisible := by
  intro n d hn
  refine ⟨by rw [sampledFrom_resetFrame, sampledFrom_resetFramePerPulse], ?_⟩
  cases n with
  | zero => exact absurd hn (Nat.lt_irrefl 0)
  | succ n => rw [destutter_resetFrame, destutter_resetFramePerPulse, destutter_pulses]

end Sys2Proof.Machine
end

section
/-! PROOFS. The shape of a frame on the lines (family 42_commit_transmit.md): a frame is a sequence of clock pulses, some
with a DATA operation before them (R127, R128, R149), and what it is for the zero buffer (R141). -/

namespace Sys2Proof.Machine

/-! ## Edges (R149, R150, R155) -/

/-- A list of clock pulses, some with one DATA operation right before them. -/
inductive Clocked : List LineOp → Prop where
  | nil : Clocked []
  | pulse {ops : List LineOp} (h : Clocked ops) : Clocked (.ch :: .cl :: ops)
  | data (bit : Bool) {ops : List LineOp} (h : Clocked (.ch :: ops)) : Clocked (dataOp bit :: .ch :: ops)

theorem Clocked.append {xs ys : List LineOp} (hx : Clocked xs) (hy : Clocked ys) : Clocked (xs ++ ys) := by
  induction hx with
  | nil => exact hy
  | pulse _ ih => exact ih.pulse
  | data bit _ ih => exact ih.data bit

theorem Clocked.flatMap {α : Type} {f : α → List LineOp} (h : ∀ x, Clocked (f x)) (xs : List α) :
    Clocked (xs.flatMap f) := by
  induction xs with
  | nil => exact .nil
  | cons x xs ih => exact (h x).append ih

theorem clocked_pulses (n : Nat) : Clocked (pulses n) := by
  induction n with
  | zero => exact .nil
  | succ n ih => exact ih.pulse

/-- A reset frame of at least one pulse: its D0 stands before the first. -/
theorem clocked_resetFrame (n : Nat) : Clocked (resetFrame (n + 1)) := (clocked_pulses n).pulse.data false

theorem clocked_writeBits (n : Nat) (w : WireByte) : Clocked (writeBits n w) := by
  induction n generalizing w with
  | zero => exact .nil
  | succ n ih => exact (ih _).pulse.data _

theorem clocked_pixelFrame (draw : BrCode) (p : Pixel) : Clocked (pixelFrame draw p) :=
  have byte (v : WireByte) : Clocked (writeByte v) := clocked_writeBits 8 v
  (((byte _).append (byte _)).append (byte _)).append (byte _)

theorem clocked_frame (draw : Nat → BrCode) (pb : Buffer) : Clocked (frame draw pb) :=
  ((clocked_resetFrame 31).append (.flatMap (fun _ => clocked_pixelFrame _ _) _)).append (clocked_resetFrame 35)

/-- What R149 says of the operation at place `k` of a list played from the levels `l`; of CL, that it is an edge. -/
def EdgeAt (l : Levels) (ops : List LineOp) (k : Nat) (op : LineOp) : Prop :=
  (op = .d0 ∨ op = .d1 → (l.after (ops.take k)).clock = false ∧ ops[k + 1]? = some .ch) ∧
    (op = .ch → (l.after (ops.take k)).clock = false) ∧ (op = .cl → (l.after (ops.take k)).clock = true)

theorem edgeAt_zero_ch {l : Levels} (hl : l.clock = false) (ops : List LineOp) : EdgeAt l (.ch :: ops) 0 .ch :=
  ⟨by simp, fun _ => hl, by simp⟩

theorem edgeAt_one_cl (l : Levels) (ops : List LineOp) : EdgeAt l (.ch :: ops) 1 .cl :=
  ⟨by simp, by simp, fun _ => rfl⟩

theorem edgeAt_zero_data {l : Levels} (hl : l.clock = false) (bit : Bool) (ops : List LineOp) :
    EdgeAt l (dataOp bit :: .ch :: ops) 0 (dataOp bit) := by
  refine ⟨fun _ => ⟨hl, rfl⟩, ?_, ?_⟩ <;> cases bit <;> simp [dataOp]

theorem Levels.apply_dataOp_clock (l : Levels) (bit : Bool) : (l.apply (dataOp bit)).clock = l.clock := by
  cases bit <;> rfl

/-- From CLOCK low every place of a list of pulses is an edge: each pulse leaves CLOCK low again, and a DATA operation
does not touch it. -/
theorem Clocked.edgeAt {ops : List LineOp} (h : Clocked ops) {l : Levels} (hl : l.clock = false) {k : Nat}
    {op : LineOp} (hk : ops[k]? = some op) : EdgeAt l ops k op := by
  induction h generalizing l k with
  | nil => cases hk
  | pulse h ih =>
    match k with
    | 0 => cases hk; exact edgeAt_zero_ch hl _
    | 1 => cases hk; exact edgeAt_one_cl l _
    | k + 2 => exact ih (l := (l.apply .ch).apply .cl) rfl hk
  | data bit h ih =>
    match k with
    | 0 => cases hk; exact edgeAt_zero_data hl bit _
    | k + 1 => exact ih ((l.apply_dataOp_clock bit).trans hl) hk

/-- Settles O41: a frame is a list of pulses, played from CLOCK low; the last clause is `Levels.after_frame`. -/
theorem frameEdges : Obligations.FrameEdges :=
  fun draw pb => ⟨fun _ _ => (clocked_frame draw pb).edgeAt rfl, Levels.after_frame draw pb .low⟩

/-- Settles O42, by `sampledFrom_frame`. -/
theorem sampledBitsOfACommit : Obligations.SampledBitsOfACommit :=
  fun draw pb d => ⟨sampledFrom_frame draw pb d, by rw [wireBits, List.length_map, List.length_range]⟩

/-! ## The frame of the zero buffer (R141) -/

theorem pixelAt_zero (i : Nat) : pixelAt Buffer.zero i = .zero := by
  simp [pixelAt, Buffer.zero]

theorem brTrunc_zero : brTrunc Pixel.zero.br = some 0 := by
  have hbits : F64.ofBits Pixel.zero.br = .fin false 0 (-1074) := by decide
  rw [brTrunc_eq, hbits, F64.truncTimes31, roundedMag_zero]
  rfl

theorem nominalBrightness_zero : nominalBrightness Buffer.zero := by
  intro i
  rw [← pixelAt_fin, pixelAt_zero, undefinedBr, brTrunc_zero]
  rfl

/-- Whatever the draw: +0.0 has the code 0. -/
theorem pixelWord_zero (draw : BrCode) : pixelWord draw .zero = 0xE0000000#32 := by
  have hcode : brCode draw Pixel.zero.br = 0#5 := brCode_of_defined brTrunc_zero
  rw [pixelWord, brByte, hcode]
  decide

theorem pixelBits_zero (draw : Nat → BrCode) (i : Nat) :
    pixelBits draw Buffer.zero i = [true, true, true] ++ List.replicate 29 false := by
  rw [pixelBits, pixelAt_zero, pixelWord_zero]
  decide

theorem sampledBits_frame_zero (draw : Nat → BrCode) : sampledBits (frame draw Buffer.zero) =
    List.replicate 32 false ++ (List.replicate 8 ([true, true, true] ++ List.replicate 29 false)).flatten ++
      List.replicate 36 false := by
  have pixels : (List.range 8).flatMap (pixelBits draw Buffer.zero) =
      (List.replicate 8 ([true, true, true] ++ List.replicate 29 false)).flatten := by
    rw [funext (pixelBits_zero draw), List.flatMap_def, List.map_const', List.length_range]
  rw [← pixels, ← wireBits_eq]
  exact sampledFrom_frame draw Buffer.zero false

end Sys2Proof.Machine
end

section
/-! PROOFS. The statements of the family 42_commit_transmit.md about a transmission: the accepting step of SHOW and CLEAR,
and the whole commit it starts. -/

namespace Sys2Proof.Machine

/-! ## The accepting step (R140, R141) -/

theorem exec_showFrame (s : State) : exec .showFrame s = .next s.startCommit := rfl

theorem exec_clear (s : State) : exec .clear s = .next (s.fillPixels .zero).startCommit := rfl

theorem State.cmdReady_of_transmitting {s : State} (h : s.st = .transmitting) (p : Pins) : s.cmdReady p = false := by
  simp [State.cmdReady, State.accepting, State.busy, h, Transport.bit]

/-- Settles O11: SHOW is `State.startCommit`, and a transmitting block is not ready. -/
theorem showStartsTheTransmission : Obligations.ShowStartsTheTransmission :=
  ⟨fun _ hop => decode_showFrame hop, fun s =>
    ⟨_, exec_showFrame s, rfl, rfl, rfl, State.cmdReady_of_transmitting rfl, rfl⟩⟩

/-- Settles O12: CLEAR fills the buffer with zeros, as SETALL does, and is then SHOW. -/
theorem clearZeroesAndTransmits : Obligations.ClearZeroesAndTransmits :=
  ⟨fun _ hop => decode_clear hop, fun s =>
    ⟨_, exec_clear s, fun i => State.fillPixels_read i .zero s, rfl, rfl, rfl, _, exec_setall 0 0 0 0 s,
      exec_showFrame _⟩⟩

/-! ## The rest of a transmission (R142 to R145) -/

/-- Settles O44: `runCycles_of_transmitting`, whose `RestSent` names the final state. -/
theorem transmissionRunsToItsEnd : Obligations.TransmissionRunsToItsEnd := by
  intro s hst hfr hrst
  have hn : s.pos.val + (906 - s.pos.val) = 906 := Nat.add_sub_cancel' s.pos.isLt.le
  obtain ⟨t, hrun, hlevels, hexit, hstate⟩ := runCycles_of_transmitting _ hst hfr hn hrst
  refine ⟨t, hrun, ?trace, hlevels, ?st, ?pos, ?commits, hexit, ?state⟩
  case trace | st | pos | commits => rw [hstate]
  case state => ext : 1 <;> rw [hstate]

/-! ## The whole commit (R140, R141, R143, R155) -/

/-- From `s` the frame of the buffer `pb` has been sent in 907 cycles, the accepting one and one for each operation
(log entry 6), and the block is Idle again with both lines low. -/
structure CommitSent (pb : Buffer) (s t : State) : Prop where
  trace : t.trace = s.trace ++ frame t.draw pb
  data : t.data = false
  clock : t.clock = false
  st : t.st = .idle
  pos : t.pos = 0
  commits : t.commits = s.commits + 1
  exitp : t.exitp = (s.exitp || (s.inputs.take 907).any fun p => p.exitReq)
  state : t = { s with
    pb := pb, data := t.data, clock := t.clock, st := t.st, pos := t.pos, exitp := t.exitp, trace := t.trace
    commits := t.commits, freeIndex := t.freeIndex, inputs := s.inputs.drop 907 }

/-- A commit whose frame has been sent from its first operation on. -/
theorem RestSent.commitSent {pb : Buffer} {s t : State} {p : Pins} {rest : List Pins} (hin : s.inputs = p :: rest)
    (hreq : p.exitReq = false) (h : RestSent 906 ({ s with pb := pb, inputs := rest } : State).startCommit t) :
    CommitSent pb s t := by
  obtain ⟨hlevels, hexit, hstate⟩ := h
  have hlow : (⟨t.data, t.clock⟩ : Levels) = .low := hlevels.symm.trans (Levels.after_frame _ _ _)
  constructor
  case data => exact congrArg Levels.data hlow
  case clock => exact congrArg Levels.clock hlow
  case exitp => simpa [hin, hreq] using hexit
  case st | pos => rw [hstate]
  case trace | commits =>
    rw [hstate]
    rfl
  case state =>
    rw [hstate]
    ext : 1 <;> simp [hin]

theorem runCycles_of_started_commit {pb : Buffer} {s : State} {p : Pins} {rest : List Pins}
    (hacc : s.accepting = true) (hin : s.inputs = p :: rest) (hreq : p.exitReq = false)
    (hrst : s.noResetFor 907 = true)
    (hstep : step s = .next ({ s with pb := pb, inputs := rest } : State).startCommit) :
    ∃ t, runCycles 907 s = .next t ∧ CommitSent pb s t := by
  obtain ⟨-, hfault, hhalt, -⟩ := s.accepting_iff.mp hacc
  obtain ⟨-, hrst'⟩ := s.noResetFor_succ hrst
  rw [State.noResetFor, State.sampled_inputs, hin] at hrst'
  obtain ⟨t, hrun, hrest⟩ := runCycles_of_transmitting 906
    (s := ({ s with pb := pb, inputs := rest } : State).startCommit) rfl
    ((State.frozen_eq_false _).mpr ⟨hfault, hhalt⟩) rfl hrst'
  exact ⟨t, (runCycles_succ hstep 906).trans hrun, hrest.commitSent hin hreq⟩

section
variable {s : State} {c : Bool} {w : CmdWord} {rest : List Pins}

theorem runCycles_of_show (hacc : s.accepting = true) (hin : s.inputs = ⟨false, c, true, w, false⟩ :: rest)
    (hop : fieldOp w = 0x06#8) (hrst : s.noResetFor 907 = true) :
    ∃ t, runCycles 907 s = .next t ∧ CommitSent s.pb s t := by
  obtain ⟨-, hcommand, -⟩ := stepRunsTheAcceptedCommand s c w rest hacc hin
  exact runCycles_of_started_commit hacc hin rfl hrst (hcommand _ (decode_showFrame hop))

theorem runCycles_of_clear (hacc : s.accepting = true) (hin : s.inputs = ⟨false, c, true, w, false⟩ :: rest)
    (hop : fieldOp w = 0x07#8) (hrst : s.noResetFor 907 = true) :
    ∃ t, runCycles 907 s = .next t ∧ CommitSent Buffer.zero s t := by
  obtain ⟨-, hcommand, -⟩ := stepRunsTheAcceptedCommand s c w rest hacc hin
  exact runCycles_of_started_commit hacc hin rfl hrst (hcommand _ (decode_clear hop))

end

/-- Settles O45, by `runCycles_of_show`. -/
theorem showSendsTheFrame : Obligations.ShowSendsTheFrame := by
  intro s c w rest hacc hin hop hrst
  obtain ⟨t, hrun, h⟩ := runCycles_of_show hacc hin hop hrst
  exact ⟨t, hrun, h.trace, h.data, h.clock, h.st, h.pos, h.commits, h.state⟩

theorem CommitSent.pb_eq {pb : Buffer} {s t : State} (h : CommitSent pb s t) : t.pb = pb := congrArg State.pb h.state

/-- Settles O47, by `runCycles_of_clear`: the zero buffer is nominal, so no draw reaches its frame (O40). -/
theorem clearSendsTheZeroFrame : Obligations.ClearSendsTheZeroFrame := by
  intro s c w rest hacc hin hop hrst
  obtain ⟨t, hrun, h⟩ := runCycles_of_clear hacc hin hop hrst
  have hzero : ∀ i : Fin 8, t.pb[i] = .zero := fun i => by
    rw [h.pb_eq, ← pixelAt_fin, pixelAt_zero]
  refine ⟨t, frame t.draw Buffer.zero, hrun, h.trace, length_frame _ _,
    fun draw => nominalFrameHasNoDraw _ draw _ nominalBrightness_zero, sampledBits_frame_zero _, hzero, h.data, h.clock,
    h.st, h.pos, h.commits, ?_⟩
  rw [h.pb_eq]
  exact h.state

/-! ## Two commits in a row (R151) -/

/-- Without an exit request a block that has sent a commit accepts commands again. -/
theorem CommitSent.accepting {pb : Buffer} {s t : State} (h : CommitSent pb s t) (hacc : s.accepting = true)
    (hreq : ((s.inputs.take 907).any fun p => p.exitReq) = false) : t.accepting = true := by
  obtain ⟨-, hfault, hhalt, hexit⟩ := s.accepting_iff.mp hacc
  refine t.accepting_iff.mpr ⟨h.st, ?_, ?_, by rw [h.exitp, hexit, hreq]; rfl⟩
  · rw [h.state, hfault]
  · rw [h.state, hhalt]

theorem CommitSent.inputs_eq {pb : Buffer} {s t : State} (h : CommitSent pb s t) : t.inputs = s.inputs.drop 907 :=
  congrArg State.inputs h.state

theorem State.noResetFor_add {m n : Nat} {s : State} (h : s.noResetFor (m + n) = true) :
    s.noResetFor m = true ∧ (((s.inputs.drop m).take n).all fun p => !p.rst) = true := by
  simpa only [State.noResetFor, List.take_add, List.all_append, Bool.and_eq_true] using h

/-- Settles O48: the second SHOW starts where `CommitSent` leaves the block, and on a nominal buffer its draws make the
same frame (O40). -/
theorem repeatedShowSendsTheSameFrame : Obligations.RepeatedShowSendsTheSameFrame := by
  intro s w w' c c' rest rest' hacc hnominal hop hop' hin hlen hrst hreq
  have hdrop : s.inputs.drop 907 = ⟨false, c', true, w', false⟩ :: rest' := by
    rw [hin, List.drop_succ_cons, ← hlen, List.drop_left]
  have hquiet : ((s.inputs.take 907).any fun p => p.exitReq) = false := by
    rw [hin, List.take_succ_cons, ← hlen, List.take_left]
    simpa using hreq
  obtain ⟨hrst₁, hrst'⟩ := State.noResetFor_add (m := 907) (n := 907) hrst
  obtain ⟨u, hrun₁, h₁⟩ := runCycles_of_show hacc hin hop hrst₁
  have hrst₂ : u.noResetFor 907 = true := by rwa [State.noResetFor, h₁.inputs_eq]
  obtain ⟨t, hrun₂, h₂⟩ := runCycles_of_show (h₁.accepting hacc hquiet) (h₁.inputs_eq.trans hdrop) hop' hrst₂
  have hpb : t.pb = s.pb := h₂.pb_eq.trans h₁.pb_eq
  have hframe : frame t.draw u.pb = frame u.draw s.pb := by
    rw [h₁.pb_eq]
    exact nominalFrameHasNoDraw _ _ _ hnominal
  exact ⟨t, frame u.draw s.pb, (runCycles_add hrun₁ 907).trans hrun₂, length_frame _ _,
    by rw [h₂.trace, h₁.trace, hframe], hpb, h₂.st⟩

end Sys2Proof.Machine
end

section
/-! PROOFS. The statements of the family 43_system.md: SETCOE, the frozen block, the exit service and its invariants,
and the way from a pending exit request to the halt. -/

namespace Sys2Proof.Machine

/-! ## SETCOE (R170) -/

theorem exec_setcoe (en : Bool) (s : State) : exec (.setcoe en) s = .next { s with coe := en } := rfl

/-- Only an accepted word writes COE, and none is accepted while an exit is pending (R100). -/
theorem CycleEffect.coe_of_pending {p : Pins} {s t : State} (h : CycleEffect p s t) (hrst : p.rst = false)
    (hexit : s.exitp = true) : t.coe = s.coe := by
  cases h with
  | reset h => simp [hrst] at h
  | word _ _ _ h => simp [hexit] at h
  | tx => simp
  | _ => rfl

/-- Settles O13, by `decode_setcoe`, `exec_setcoe` and `CycleEffect.coe_of_pending`. -/
theorem setcoeWritesCoe : Obligations.SetcoeWritesCoe :=
  ⟨fun _ hop => decode_setcoe hop, fun s en => exec_setcoe en s,
    fun _ _ hexit hrst hstep => (step_effect hstep).coe_of_pending hrst hexit⟩

/-! ## The frozen block (R174, R188) -/

theorem State.frozen_eq_true (s : State) : s.frozen = true ↔ s.halt = true ∨ s.fault ≠ .none := by
  simp [State.frozen, or_comm]

theorem step_of_frozen {s : State} (hfr : s.frozen = true) (hrst : s.pins.rst = false) :
    step s = .next s.sampled := by
  simp [step, cycle, hrst, hfr]

/-- Settles O21: a frozen block takes the second branch of R192 and is not ready. -/
theorem frozenBlockHoldsEverything : Obligations.FrozenBlockHoldsEverything := by
  intro s hcause hrst
  have hfr : s.frozen = true := s.frozen_eq_true.mpr hcause
  exact ⟨step_of_frozen hfr hrst, by simp [State.cmdReady, State.accepting, hfr]⟩

/-! ## The exit service (R172, R173) -/

/-- The state in which the final clear has just been started (R172). -/
def State.startFinalClear (s : State) : State := { (s.fillPixels .zero).startCommit with finalSent := true }

theorem State.exitService_of_not_final {s : State} (hcoe : s.coe = true) (hfinal : s.finalSent = false) :
    s.exitService = s.startFinalClear := by
  simp [State.exitService, State.startFinalClear, hcoe, hfinal]

theorem State.exitService_of_done {s : State} (hdone : s.coe = false ∨ s.finalSent = true) :
    s.exitService = { s with halt := true } := by
  obtain hcoe | hfinal := hdone
  · simp [State.exitService, hcoe]
  · simp [State.exitService, hfinal]

theorem Buffer.zero_read (i : Fin Config.nPix) : Buffer.zero[i] = .zero := by
  rw [← pixelAt_fin, pixelAt_zero]

theorem step_of_not_final {s : State} (hst : s.st = .idle) (hexit : s.exitp = true) (hfr : s.frozen = false)
    (hcoe : s.coe = true) (hfinal : s.finalSent = false) (hrst : s.pins.rst = false) :
    step s = .next s.sampled.startFinalClear := by
  rw [step_of_exit_pending hst hexit hfr hrst, State.exitService_of_not_final (s := s.sampled) hcoe hfinal]

/-- Settles O25: the exit service acts in this cycle, and its first case is `State.startFinalClear`. -/
theorem exitServiceStartsTheFinalClear : Obligations.ExitServiceStartsTheFinalClear := by
  intro s hst hexit hfr hcoe hfinal hrst
  exact ⟨_, step_of_not_final hst hexit hfr hcoe hfinal hrst, Buffer.zero_read, rfl, rfl, rfl, rfl⟩

/-- Settles O26: the exit service acts in this cycle, and its other case sets HALT. -/
theorem exitServiceHalts : Obligations.ExitServiceHalts := by
  intro s hst hexit hfr hdone hrst
  rw [step_of_exit_pending hst hexit hfr hrst, State.exitService_of_done (s := s.sampled) hdone]
  rfl

theorem step_of_exit_request {s : State} (hst : s.st = .idle) (hfr : s.frozen = false) (hrst : s.pins.rst = false)
    (hreq : s.pins.exitReq = true) : step s = .next s.sampled.exitCycle := by
  have hbusy : s.sampled.busy = false := s.sampled.busy_eq_false.mpr hst
  simp [step, cycle, hrst, hfr, hbusy, hreq]

/-- Settles O57, by the three cases of `State.exitCycle_cases`. -/
theorem exitRequestFirstSeenInIdle : Obligations.ExitRequestFirstSeenInIdle := by
  intro s hst _ hfr hrst hreq
  refine ⟨_, step_of_exit_request hst hfr hrst hreq, ?_⟩
  obtain ⟨n, ⟨-, heq⟩ | ⟨hcoe, hfinal, heq⟩ | ⟨hdone, heq⟩⟩ := s.sampled.exitCycle_cases <;> rw [heq]
  · exact .inl rfl
  · exact .inr (.inl ⟨hcoe, hfinal, Buffer.zero_read, rfl⟩)
  · exact .inr (.inr ⟨hdone, rfl⟩)

/-! ## The invariants of the exit hook -/

theorem State.ExitOk.sampled {s : State} (h : s.ExitOk) : s.sampled.ExitOk :=
  ⟨h.pendingNoFault, h.finalPending, h.finalZero, h.haltPending, h.haltCleared⟩

/-- What is left of the exit invariants for a block that is not halted. -/
theorem State.exitOk_of_not_halted {t : State} (hhalt : t.halt = false)
    (hpending : t.exitp = true → t.fault = .none)
    (hfinal : t.finalSent = true → t.exitp = true ∧ t.pb = Buffer.zero) : t.ExitOk where
  pendingNoFault := hpending
  finalPending h := (hfinal h).1
  finalZero h := (hfinal h).2
  haltPending h := by simp [hhalt] at h
  haltCleared h := by simp [hhalt] at h

/-- A word is accepted only while no exit is pending (R100), and it changes neither that nor FINAL. -/
theorem WordEffect.exitOk {s t : State} (heff : WordEffect s t) (h : s.ExitOk) (hhalt : s.halt = false)
    (hexit : s.exitp = false) : t.ExitOk := by
  obtain ⟨hhalt', hexit', hfinal'⟩ := heff.exit_eq
  have notFinal : s.finalSent ≠ true := fun hfinal => by simp [h.finalPending hfinal] at hexit
  exact State.exitOk_of_not_halted (hhalt'.trans hhalt) (by simp [hexit', hexit]) (by simp [hfinal', notFinal])

theorem CycleEffect.exitOk {p : Pins} {s t : State} (heff : CycleEffect p s t) (h : s.ExitOk) : t.ExitOk := by
  have live (hfr : s.frozen = false) : s.fault = .none ∧ s.halt = false := s.frozen_eq_false.mp hfr
  cases heff with
  | reset => exact State.resetTo_exitOk _ _
  | frozen => exact h
  | quiet => exact h
  | word _ hfr _ hexit _ _ heff => exact heff.exitOk h (live hfr).2 hexit
  | tx _ hfr =>
    obtain ⟨hfault, hhalt⟩ := live hfr
    refine State.exitOk_of_not_halted (by simp [hhalt]) (by simp [hfault]) fun hfinal => ?_
    have hfinal' : s.finalSent = true := by simpa using hfinal
    simp [h.finalPending hfinal', h.finalZero hfinal']
  | latch _ hfr =>
    obtain ⟨hfault, hhalt⟩ := live hfr
    exact State.exitOk_of_not_halted hhalt (fun _ => hfault) fun hfinal => ⟨rfl, h.finalZero hfinal⟩
  | finalClear _ hfr =>
    obtain ⟨hfault, hhalt⟩ := live hfr
    exact State.exitOk_of_not_halted hhalt (fun _ => hfault) fun _ => ⟨rfl, rfl⟩
  | halt _ hfr hst _ hdone =>
    obtain ⟨hfault, -⟩ := live hfr
    constructor
    case pendingNoFault => exact fun _ => hfault
    case finalPending => exact fun _ => rfl
    case finalZero => exact h.finalZero
    case haltPending => exact fun _ => ⟨rfl, hst⟩
    case haltCleared =>
      intro _ hcoe
      exact hdone.resolve_left (by simpa using hcoe)

/-- Settles O54, by the effects of a cycle. -/
theorem exitInvariantKept : Obligations.ExitInvariantKept :=
  fun _ _ h hstep => (step_effect hstep).exitOk h.sampled

/-! ## From the pending request to the halt (R172 to R174) -/

/-- From `s` the final clear has been started and its frame sent, in one cycle and one for each operation (log entry 6);
the block is Idle again with its exit still pending. -/
structure FinalClearSent (s t : State) : Prop where
  st : t.st = .idle
  exitp : t.exitp = true
  finalSent : t.finalSent = true
  frozen : t.frozen = false
  data : t.data = false
  clock : t.clock = false
  pb : t.pb = Buffer.zero
  trace : t.trace = s.trace ++ frame t.draw t.pb
  inputs : t.inputs = s.inputs.drop 907

theorem RestSent.finalClearSent {s t : State} (h : RestSent 906 s.sampled.startFinalClear t) (hexit : s.exitp = true)
    (hfr : s.frozen = false) : FinalClearSent s t := by
  obtain ⟨hlevels, hpending, hstate⟩ := h
  have hlow : (⟨t.data, t.clock⟩ : Levels) = .low := hlevels.symm.trans (Levels.after_frame _ _ _)
  constructor
  case data => exact congrArg Levels.data hlow
  case clock => exact congrArg Levels.clock hlow
  case exitp =>
    rw [hpending]
    exact Bool.or_eq_true_iff.mpr (.inl hexit)
  case inputs =>
    rw [hstate]
    exact List.drop_tail
  case frozen =>
    rw [hstate]
    exact hfr
  case st => rw [hstate]
  case finalSent | pb | trace =>
    rw [hstate]
    rfl

theorem runCycles_of_final_clear {s : State} (hst : s.st = .idle) (hexit : s.exitp = true) (hfr : s.frozen = false)
    (hcoe : s.coe = true) (hfinal : s.finalSent = false) (hrst : s.noResetFor 907 = true) :
    ∃ t, runCycles 907 s = .next t ∧ FinalClearSent s t := by
  obtain ⟨hrst₀, hrstSend⟩ := s.noResetFor_succ hrst
  have hstart := step_of_not_final hst hexit hfr hcoe hfinal hrst₀
  obtain ⟨t, hsend, hrest⟩ :=
    runCycles_of_transmitting 906 (s := s.sampled.startFinalClear) rfl hfr rfl hrstSend
  exact ⟨t, (runCycles_succ hstart 906).trans hsend, hrest.finalClearSent hexit hfr⟩

/-- Settles O49: after the final clear (`runCycles_of_final_clear`) the exit service finds FINAL set and halts (O26). -/
theorem exitWithRegistrationClearsAndHalts : Obligations.ExitWithRegistrationClearsAndHalts := by
  intro s hst hexit hfr hcoe hfinal hrst
  obtain ⟨hrstClear, hrstHalt⟩ := State.noResetFor_add (m := 907) (n := 1) hrst
  obtain ⟨u, hclear, hu⟩ := runCycles_of_final_clear hst hexit hfr hcoe hfinal hrstClear
  have hrst' : u.pins.rst = false := (State.noResetFor_succ (n := 0) (by rwa [State.noResetFor, hu.inputs])).1
  have hhalt := exitServiceHalts u hu.st hu.exitp hu.frozen (.inr hu.finalSent) hrst'
  have hrun : runCycles 908 s = .next { u with halt := true, inputs := u.inputs.tail } :=
    (runCycles_add hclear 1).trans (runCycles_succ hhalt 0)
  have hzero : ∀ i : Fin 8, u.pb[i] = .zero := fun i => by rw [hu.pb, Buffer.zero_read]
  exact ⟨_, hrun, rfl, (u.frozen_eq_false.mp hu.frozen).1, hu.finalSent, hu.st, hu.data, hu.clock, hzero, hu.trace⟩

end Sys2Proof.Machine
end

section
/-! PROOFS. The quiet Idle cycle (60_exceptions.md R192 items 2 and 6). -/

namespace Sys2Proof.Machine

/-- No branch of R192 before the last applies to an Idle block that is not frozen and is asked for nothing. -/
theorem step_of_no_request {s : State} (hst : s.st = .idle) (hfr : s.frozen = false) (hrst : s.pins.rst = false)
    (hexit : s.exitp = false) (hreq : s.pins.exitReq = false) (hvalid : s.pins.cmdValid = false) :
    step s = .next s.sampled := by
  have hbusy : s.sampled.busy = false := s.sampled.busy_eq_false.mpr hst
  simp [step, cycle, hrst, hfr, hbusy, hexit, hreq, hvalid]

/-- Settles O56: a frozen block takes the second branch of R192 (`step_of_frozen`), any other the last one. -/
theorem quietCycleDoesNothing : Obligations.QuietCycleDoesNothing := by
  intro s hst hrst hexit hreq hvalid
  cases hfr : s.frozen with
  | true => exact step_of_frozen hfr hrst
  | false => exact step_of_no_request hst hfr hrst hexit hreq hvalid

end Sys2Proof.Machine
end

section
/-! PROOFS. The good end of a run (70_reset_and_hazards.md R225). -/

namespace Sys2Proof.Machine

/-- What quiet pins meet and every coming sample meets, the pins of this cycle meet (log entry 1). -/
theorem State.pins_of_all_inputs {f : Pins → Bool} {s : State} (hquiet : f .quiet = true)
    (hall : s.inputs.all f = true) : f s.pins = true := by
  unfold State.pins
  cases hin : s.inputs with
  | nil => exact hquiet
  | cons p rest => exact List.all_eq_true.mp hall p (by simp [hin])

theorem State.pins_of_hostDone {s : State} (h : s.hostDone = true) : s.pins.cmdValid = false := by
  simpa using s.pins_of_all_inputs rfl h

theorem State.pins_of_envQuiet {s : State} (h : s.envQuiet = true) : s.pins.rst = false ∧ s.pins.exitReq = false := by
  simpa using s.pins_of_all_inputs rfl h

theorem State.hostDone_sampled {s : State} (h : s.hostDone = true) : s.sampled.hostDone = true :=
  List.all_eq_true.mpr fun p hp => List.all_eq_true.mp h p (List.mem_of_mem_tail hp)

theorem State.idleQuiet_iff (s : State) :
    s.idleQuiet = true ↔ s.st = .idle ∧ s.exitp = false ∧ s.halt = false := by
  simp [State.idleQuiet, s.busy_eq_false, and_assoc]

theorem State.goodEnd_iff (s : State) :
    s.goodEnd = true ↔ s.hostDone = true ∧ s.fault = .none ∧ (s.idleQuiet = true ∨ s.halt = true) := by
  simp [State.goodEnd, State.noFault, and_assoc]

/-- NoFault, IdleQuiet and HALT do not look at the input list, and the host stays done. -/
theorem State.goodEnd_sampled {s : State} (h : s.goodEnd = true) : s.sampled.goodEnd = true := by
  obtain ⟨hdone, hend⟩ := s.goodEnd_iff.mp h
  exact s.sampled.goodEnd_iff.mpr ⟨State.hostDone_sampled hdone, hend⟩

/-- A good end is either quiet in Idle (O56) or frozen by HALT (R192 item 2). -/
theorem step_of_goodEnd {s : State} (hend : s.goodEnd = true) (henv : s.envQuiet = true) :
    step s = .next s.sampled := by
  obtain ⟨hrst, hreq⟩ := State.pins_of_envQuiet henv
  obtain ⟨hdone, -, hidle | hhalt⟩ := s.goodEnd_iff.mp hend
  · obtain ⟨hst, hexit, -⟩ := s.idleQuiet_iff.mp hidle
    exact quietCycleDoesNothing s hst hrst hexit hreq (State.pins_of_hostDone hdone)
  · exact step_of_frozen (s.frozen_eq_true.mpr (.inl hhalt)) hrst

/-- Settles O50, by `step_of_goodEnd` and `State.goodEnd_sampled`. -/
theorem goodEndIsQuiescent : Obligations.GoodEndIsQuiescent :=
  fun _ hend henv => ⟨step_of_goodEnd hend henv, State.goodEnd_sampled hend⟩

end Sys2Proof.Machine
end
